-- ==== Sys2Proof/Config.lean ====
section
/-! DEFINITION. The parameters of 00_scope R13, one record of named constants: no other file repeats their digits, the
widths and the codes among them. Then the moves an agent can make (00_scope R16), and the two values the spec leaves
free. The two parameters the spec leaves to the model, `INIT_POST_SWITCH_DELAY_MS` and `SPEED_READ_TEARING`, are fields
of State (log 13, 14); what they hold after reset stands here. Widths that are no parameter are those of the types of R14: `u4`, `u8`, `u32`. -/

namespace Sys2Proof

namespace Config

/-- `COUNTER_BITS`, the width of the counter and of a captured value (00_scope R13; 10_state R33, 43_tachometer R163). -/
abbrev counterBits : Nat := 16
/-- `REQ_BITS`, the width of a request word (00_scope R13, 30_encoding R80). -/
abbrev reqBits : Nat := 36
/-- `STR_ADDR_BITS`, the width of an address of the string space (00_scope R13, 20_memory R60). -/
abbrev strAddrBits : Nat := 32

/-- `CLOCK_HZ`, the timer clock (00_scope R13; used by 43_tachometer R170). -/
def clockHz : BitVec 32 := 8000000
/-- `SEC_PER_MIN` (00_scope R13). -/
def secPerMin : BitVec 32 := 60
/-- `GEAR_RATIO` (00_scope R13). -/
def gearRatio : BitVec 32 := 120
/-- `COUNTER_MAX`, the counter's load and wrap value (00_scope R13; PRESUMED as the wrap value, log 17). -/
def counterMax : BitVec counterBits := 0xFFFF
/-- `DEGENERATE_SPEED`, the clamped speed of a zero interval (00_scope R13, 43_tachometer R171; log 23). -/
def degenerateSpeed : BitVec 32 := 0
/-- `DEFAULT_SPEED`, the speed before any capture (00_scope R13, 10_state R37; log 23). -/
def defaultSpeed : BitVec 32 := 0

/-- `T_INIT_0_MS` (00_scope R13, 40_lcd_init R111). -/
def tInit0Ms : Nat := 20
/-- `T_INIT_1_MS`. -/
def tInit1Ms : Nat := 5
/-- `T_INIT_2_MS`. -/
def tInit2Ms : Nat := 1
/-- `T_INIT_3_MS`. -/
def tInit3Ms : Nat := 1
/-- `INIT_POST_SWITCH_DELAY_MS` after reset: 0, as nothing else is known (00_scope R13; log 13). -/
def initPostSwitchDelayMs : Nat := 0
/-- `T_CMD_SLOW_MS` (41_lcd R127). -/
def tCmdSlowMs : Nat := 2
/-- `T_CMD_FAST_MS` (41_lcd R127). -/
def tCmdFastMs : Nat := 1
/-- `SLOW_CMD_LIMIT`: codes below it take the slow settle delay (41_lcd R127). -/
def slowCmdLimit : BitVec 8 := 4
/-- `T_DATA_MS` (41_lcd R128). -/
def tDataMs : Nat := 1

/-- `CTRL_RS`, control bit 0, register-select (30_encoding R85). -/
def ctrlRs : BitVec 4 := 0x1
/-- `CTRL_EN`, control bit 1, enable (30_encoding R85). -/
def ctrlEn : BitVec 4 := 0x2

/-- `CMD_CLEAR`, given by the source (30_encoding R88). -/
def cmdClear : BitVec 8 := 0x01
/-- `CMD_HOME`, given by the source (30_encoding R88). -/
def cmdHome : BitVec 8 := 0x02
/-- `CMD_ENTRY_MODE`. PRESUMED (G1, log 16). -/
def cmdEntryMode : BitVec 8 := 0x06
/-- `CMD_DISPLAY_ON`. PRESUMED (G1, log 16). -/
def cmdDisplayOn : BitVec 8 := 0x0F
/-- `CMD_FUNCTION_SET`. PRESUMED (G1, log 16). -/
def cmdFunctionSet : BitVec 8 := 0x28
/-- `NIB_RESET8`, the 8-bit-mode reset pulse. PRESUMED (G2, log 16). -/
def nibReset8 : BitVec 8 := 0x30
/-- `NIB_SET4`, the switch to 4-bit mode. PRESUMED (G2, log 16). -/
def nibSet4 : BitVec 8 := 0x20

/-- `UFIX_MAX` (42_lcd R150). -/
def uFixMax : BitVec 32 := 9999
/-- `CH_0`. PRESUMED (ASCII, G3, log 16). -/
def ch0 : BitVec 8 := 0x30
/-- `CH_A`. PRESUMED (ASCII, G3, log 16). -/
def chA : BitVec 8 := 0x41
/-- `CH_DOT`. PRESUMED (ASCII, G3, log 16). -/
def chDot : BitVec 8 := 0x2E
/-- `CH_STAR`. PRESUMED (ASCII, G3, log 16). -/
def chStar : BitVec 8 := 0x2A
/-- `UFIX_OVERFLOW_TEXT`, the five bytes of the overflow text (42_lcd R150). -/
def uFixOverflowText : List (BitVec 8) := [chStar, chDot, chStar, chStar, chStar]
/-- `STR_NULL`, the start address that names no string (42_lcd R143; PRESUMED, G7, log 20). -/
def strNull : BitVec strAddrBits := 0
/-- `SPEED_READ_TEARING` after reset: the default (00_scope R13; log 14). -/
def speedReadTearing : Bool := false
/-- The most digits a 32-bit value has in radix 10, the depth bound of 42_lcd R145 (10_state R23; log 25). -/
def maxDigits : Nat := 10

end Config

/-- One move of the interleaving (00_scope R16, 60_exceptions R201): which agent acts next, and with what from outside
the block. Seven moves are the steps of R16; `present` is the host putting a request on its port (R9) and `strWrite`
the platform changing a byte of the string space (20_memory R69). -/
inductive Choice where
  | present (w : BitVec Config.reqBits)
  | strWrite (a : BitVec Config.strAddrBits) (b : BitVec 8)
  | accept
  | seq
  | irqAck
  | irqBody
  | tick
  | edge
  | reset
  deriving DecidableEq, Repr, Inhabited

namespace Config

/-- FREE VALUE. Which enabled step runs next is not determined (60_exceptions R201). The `n`th move drawn when State
lists none is `freeChoice n`, any move at all, the words and bytes from outside among them (log 1). -/
opaque freeChoice : Nat → Choice

/-- FREE VALUE. The byte the platform's string space holds at an address that State does not list (20_memory R61: the
string space is a parameter of the model; log 5). -/
opaque strByte : BitVec strAddrBits → BitVec 8

end Config

end Sys2Proof
end

