-- ==== Sys2Proof/Word.lean ====
section
/-! DEFINITION. The widths of the block's words (00_scope R14): bit 0 is the least significant bit and every
quantity is unsigned. -/

namespace Sys2Proof

/-- `u4`: a data nibble or a control pattern (00_scope R14, R19). -/
abbrev Nibble := BitVec 4

/-- `u8`: a byte of a string, a display code or a frame byte (00_scope R14). -/
abbrev Byte := BitVec 8

/-- `u16`: a counter or capture value (10_state R33 to R36). -/
abbrev Half := BitVec Config.counterBits

/-- `u32`: an operand, an interval, a speed (00_scope R14). -/
abbrev Word := BitVec 32

/-- The 36-bit request word: `op` in 35:32, `arg` in 31:0 (30_encoding R80). -/
abbrev ReqWord := BitVec Config.reqBits

/-- An address of the string space (20_memory R60). -/
abbrev Addr := BitVec Config.strAddrBits

end Sys2Proof
end

