-- ==== Sys2Proof/Syntax.lean ====
section
/-! DEFINITION. The syntax: one constructor for each of the 38 rows of spec/opcode_table.json. A request keeps every
bit of its word, the ignored ones too, because `cur_arg` latches them (10_state R22). -/

namespace Sys2Proof

/-- A row of the opcode table with its operands. -/
inductive Instr where
  /-- `LCD_INIT`, `arg` ignored (40_lcd_init R110). -/
  | lcdInit (arg : Word)
  /-- `LCD_CLEAR`, `arg` ignored (41_lcd R129). -/
  | lcdClear (arg : Word)
  /-- `LCD_COMMAND b`, `arg[31:8]` ignored (41_lcd R127). -/
  | lcdCommand (hi : BitVec 24) (b : Byte)
  /-- `LCD_DATA b`, `arg[31:8]` ignored (41_lcd R128). -/
  | lcdData (hi : BitVec 24) (b : Byte)
  /-- `LCD_OUTSTRING a` (42_lcd R141). -/
  | lcdOutString (a : Addr)
  /-- `LCD_OUTUDEC n` (42_lcd R146). -/
  | lcdOutUDec (n : Word)
  /-- `LCD_OUTUHEX n` (42_lcd R148). -/
  | lcdOutUHex (n : Word)
  /-- `LCD_OUTUFIX n` (42_lcd R150). -/
  | lcdOutUFix (n : Word)
  /-- `TACH_INIT`, `arg` ignored (43_tachometer R161). -/
  | tachInit (arg : Word)
  /-- `TACH_GETINTERVAL`, `arg` ignored (43_tachometer R175). -/
  | tachGetInterval (arg : Word)
  /-- Reserved operation code 0xA (30_encoding R83). -/
  | reservedA (arg : Word)
  /-- Reserved operation code 0xB (30_encoding R83). -/
  | reservedB (arg : Word)
  /-- Reserved operation code 0xC (30_encoding R83). -/
  | reservedC (arg : Word)
  /-- Reserved operation code 0xD (30_encoding R83). -/
  | reservedD (arg : Word)
  /-- Reserved operation code 0xE (30_encoding R83). -/
  | reservedE (arg : Word)
  /-- Reserved operation code 0xF (30_encoding R83). -/
  | reservedF (arg : Word)
  /-- `LCD_HOME`, another spelling of `LCD_COMMAND 0x02` (30_encoding R94). -/
  | lcdHome (hi : BitVec 24)
  /-- Frame with enable low, register-select 0 (30_encoding R87). -/
  | frameIdleCmd (d : Nibble)
  /-- Frame with enable high, register-select 0 (30_encoding R87). -/
  | frameStrobeCmd (d : Nibble)
  /-- Frame with enable low, register-select 1 (30_encoding R87). -/
  | frameIdleData (d : Nibble)
  /-- Frame with enable high, register-select 1 (30_encoding R87). -/
  | frameStrobeData (d : Nibble)
  /-- A frame byte by its fields (30_encoding R85). -/
  | frameGeneral (d : Nibble) (k3 k2 en rs : Bool)
  /-- Display code 0x01 (30_encoding R88). -/
  | cmdClear
  /-- Display code 0x02 (30_encoding R88). -/
  | cmdHome
  /-- Display code 0x06 (30_encoding R88). -/
  | cmdEntryMode
  /-- Display code 0x0F (30_encoding R88). -/
  | cmdDisplayOn
  /-- Display code 0x28 (30_encoding R88). -/
  | cmdFunctionSet
  /-- Reset-sequence value 0x30 (30_encoding R89). -/
  | nibReset8
  /-- Reset-sequence value 0x20 (30_encoding R89). -/
  | nibSet4
  /-- `NIBBLE_WRITE(v, c)` (41_lcd R120). -/
  | nibbleWrite (v : Byte) (c : Nibble)
  /-- `BYTE_XFER(b, c)` (41_lcd R123). -/
  | byteXfer (b : Byte) (c : Nibble)
  /-- Handler step 1 (43_tachometer R166). -/
  | irqAck
  /-- Handler step 2 (43_tachometer R167). -/
  | irqBody
  /-- One period of the timer clock (43_tachometer R163). -/
  | tick
  /-- A rising edge of the sensor input (43_tachometer R164). -/
  | edge
  /-- Hardware reset (70_reset R220). -/
  | reset
  /-- The host step `Accept(req)` (10_state R22). -/
  | accept (req : ReqWord)
  /-- The sequencer step `Seq` (10_state R22). -/
  | seq
  deriving DecidableEq, Repr

end Sys2Proof
end

