-- ==== Sys2Proof/WellFormed.lean ====
section
/-! DEFINITION. Which terms are the table's own reading of a word. Operand widths are types, so two checks remain, both
about a word that two rows match: the row that fixes more bits names it. -/

namespace Sys2Proof

/-- `LCD_HOME` names every word of `LCD_COMMAND 0x02` (30_encoding R94, log 8); the four frame rows with control bits
3 and 2 zero name every frame that has them zero, `FRAME_GENERAL` the others (30_encoding R85, R87, log 7). -/
def Instr.wellFormed : Instr → Bool
  | .lcdCommand _ b => b != Config.cmdHome
  | .frameGeneral _ k3 k2 _ _ => k3 || k2
  | _ => true

end Sys2Proof
end

