-- ==== Sys2Proof/Decode.lean ====
section
/-! DEFINITION. The decoder and the encoder, from 30_encoding R80 to R89 and spec/opcode_table.json. The table has
three formats that live in different places, so a word carries the place it stands in; the bytes the host hands over
carry none, and `decodeBytes` tells them apart by length and by the row that fixes most bits (log 7). -/

namespace Sys2Proof

/-- A word of the table with its format: on the request port (30_encoding R80), as a transmission (R85), or as a
display code carried inside one (R88, R89). -/
inductive TableWord where
  | request (w : ReqWord)
  | frame (f : Byte)
  | code (c : Byte)
  deriving DecidableEq, Repr

/-- Why bytes are no word of the table. -/
inductive Reject where
  /-- Neither one byte nor five (30_encoding R80, R85). -/
  | wrongWidth (bytes : Nat)
  /-- As many bytes as a request word takes, with a bit set above its 36 (30_encoding R80). -/
  | bitsAboveRequest (value : Nat)
  /-- A display code that is none of the seven of 30_encoding R88, R89. -/
  | unknownCode (c : Byte)
  deriving DecidableEq, Repr

/-- `req[35:32]` (30_encoding R80). -/
def reqOp (w : ReqWord) : Nibble := w.extractLsb' 32 4

/-- `req[31:0]` (30_encoding R80). -/
def reqArg (w : ReqWord) : Word := w.extractLsb' 0 32

/-- `arg[31:8]`, ignored by the byte operations and kept by `cur_arg` (30_encoding R82). -/
def argHi (a : Word) : BitVec 24 := a.extractLsb' 8 24

/-- `arg[7:0]`, the byte operand (30_encoding R82). -/
def argByte (a : Word) : Byte := a.extractLsb' 0 8

/-- The operation a request word selects (30_encoding R81 to R83, R94). -/
def decodeRequest (w : ReqWord) : Instr :=
  match (reqOp w).toNat with
  | 0 => .lcdInit (reqArg w)
  | 1 => .lcdClear (reqArg w)
  | 2 => if argByte (reqArg w) = Config.cmdHome then .lcdHome (argHi (reqArg w))
         else .lcdCommand (argHi (reqArg w)) (argByte (reqArg w))
  | 3 => .lcdData (argHi (reqArg w)) (argByte (reqArg w))
  | 4 => .lcdOutString (reqArg w)
  | 5 => .lcdOutUDec (reqArg w)
  | 6 => .lcdOutUHex (reqArg w)
  | 7 => .lcdOutUFix (reqArg w)
  | 8 => .tachInit (reqArg w)
  | 9 => .tachGetInterval (reqArg w)
  | 10 => .reservedA (reqArg w)
  | 11 => .reservedB (reqArg w)
  | 12 => .reservedC (reqArg w)
  | 13 => .reservedD (reqArg w)
  | 14 => .reservedE (reqArg w)
  | _ => .reservedF (reqArg w)

/-- The row of a frame byte: data nibble 7:4, control bits 3 and 2, enable 1, register-select 0 (30_encoding R85,
R87). -/
def decodeFrame (f : Byte) : Instr :=
  match f.getLsbD 3, f.getLsbD 2, f.getLsbD 1, f.getLsbD 0 with
  | false, false, false, false => .frameIdleCmd (f.extractLsb' 4 4)
  | false, false, true, false => .frameStrobeCmd (f.extractLsb' 4 4)
  | false, false, false, true => .frameIdleData (f.extractLsb' 4 4)
  | false, false, true, true => .frameStrobeData (f.extractLsb' 4 4)
  | k3, k2, en, rs => .frameGeneral (f.extractLsb' 4 4) k3 k2 en rs

/-- The row of a display code (30_encoding R88, R89). -/
def decodeCode (c : Byte) : Except Reject Instr :=
  if c = Config.cmdClear then .ok .cmdClear
  else if c = Config.cmdHome then .ok .cmdHome
  else if c = Config.cmdEntryMode then .ok .cmdEntryMode
  else if c = Config.cmdDisplayOn then .ok .cmdDisplayOn
  else if c = Config.cmdFunctionSet then .ok .cmdFunctionSet
  else if c = Config.nibReset8 then .ok .nibReset8
  else if c = Config.nibSet4 then .ok .nibSet4
  else .error (.unknownCode c)

/-- The row of a word in its place. -/
def decode : TableWord → Except Reject Instr
  | .request w => .ok (decodeRequest w)
  | .frame f => .ok (decodeFrame f)
  | .code c => decodeCode c

/-- The row of one byte whose place is not known: a display code fixes all eight bits and comes first, else the byte
is a frame (log 7). -/
def decodeByte (b : Byte) : Instr :=
  match decodeCode b with
  | .ok i => i
  | .error _ => decodeFrame b

/-- Bytes, first byte least significant, as one number. -/
def bytesToNat : List Byte → Nat
  | [] => 0
  | b :: bs => b.toNat + 256 * bytesToNat bs

/-- The lowest `k` bytes of a number, the least significant first. -/
def natToBytes : Nat → Nat → List Byte
  | 0, _ => []
  | k + 1, w => BitVec.ofNat 8 w :: natToBytes k (w / 256)

/-- How many whole bytes `nbits` bits take. -/
def byteCount (nbits : Nat) : Nat := (nbits + 7) / 8

/-- Decoding of any bytes: five are a request word, one is a frame or a display code, and everything else is rejected
by name. -/
def decodeBytes (bs : List Byte) : Except Reject Instr :=
  match bs with
  | [b] => .ok (decodeByte b)
  | _ =>
    if bs.length = byteCount Config.reqBits then
      if bytesToNat bs < 2 ^ Config.reqBits then .ok (decodeRequest (BitVec.ofNat Config.reqBits (bytesToNat bs)))
      else .error (.bitsAboveRequest (bytesToNat bs))
    else .error (.wrongWidth bs.length)

/-- The instruction the decoder reads from a table word of `nbits` bits with value `w`. -/
def decodeTableWord (nbits w : Nat) : Option Instr :=
  match decodeBytes (natToBytes (byteCount nbits) w) with
  | .ok i => some i
  | .error _ => none

/-- A request word from its fields (30_encoding R80). -/
def requestWord (op : Nibble) (arg : Word) : ReqWord := op ++ arg

/-- The operand of a byte operation with its ignored upper bits (30_encoding R82). -/
def byteArg (hi : BitVec 24) (b : Byte) : Word := hi ++ b

/-- A frame byte from its fields (30_encoding R85). -/
def frameByte (d : Nibble) (k3 k2 en rs : Bool) : Byte :=
  d ++ (BitVec.ofBool k3 ++ (BitVec.ofBool k2 ++ (BitVec.ofBool en ++ BitVec.ofBool rs)))

/-- The word of an instruction, from the rows' encodings; the rows of format MICRO and STEP have none. -/
def encode : Instr → Option TableWord
  | .lcdInit arg => some (.request (requestWord 0x0 arg))
  | .lcdClear arg => some (.request (requestWord 0x1 arg))
  | .lcdCommand hi b => some (.request (requestWord 0x2 (byteArg hi b)))
  | .lcdData hi b => some (.request (requestWord 0x3 (byteArg hi b)))
  | .lcdOutString a => some (.request (requestWord 0x4 a))
  | .lcdOutUDec n => some (.request (requestWord 0x5 n))
  | .lcdOutUHex n => some (.request (requestWord 0x6 n))
  | .lcdOutUFix n => some (.request (requestWord 0x7 n))
  | .tachInit arg => some (.request (requestWord 0x8 arg))
  | .tachGetInterval arg => some (.request (requestWord 0x9 arg))
  | .reservedA arg => some (.request (requestWord 0xA arg))
  | .reservedB arg => some (.request (requestWord 0xB arg))
  | .reservedC arg => some (.request (requestWord 0xC arg))
  | .reservedD arg => some (.request (requestWord 0xD arg))
  | .reservedE arg => some (.request (requestWord 0xE arg))
  | .reservedF arg => some (.request (requestWord 0xF arg))
  | .lcdHome hi => some (.request (requestWord 0x2 (byteArg hi Config.cmdHome)))
  | .frameIdleCmd d => some (.frame (frameByte d false false false false))
  | .frameStrobeCmd d => some (.frame (frameByte d false false true false))
  | .frameIdleData d => some (.frame (frameByte d false false false true))
  | .frameStrobeData d => some (.frame (frameByte d false false true true))
  | .frameGeneral d k3 k2 en rs => some (.frame (frameByte d k3 k2 en rs))
  | .cmdClear => some (.code Config.cmdClear)
  | .cmdHome => some (.code Config.cmdHome)
  | .cmdEntryMode => some (.code Config.cmdEntryMode)
  | .cmdDisplayOn => some (.code Config.cmdDisplayOn)
  | .cmdFunctionSet => some (.code Config.cmdFunctionSet)
  | .nibReset8 => some (.code Config.nibReset8)
  | .nibSet4 => some (.code Config.nibSet4)
  | .nibbleWrite _ _ => none
  | .byteXfer _ _ => none
  | .irqAck => none
  | .irqBody => none
  | .tick => none
  | .edge => none
  | .reset => none
  | .accept _ => none
  | .seq => none

/-- A table word as the bytes the host hands over, first byte least significant. -/
def TableWord.bytes : TableWord → List Byte
  | .request w => natToBytes (byteCount Config.reqBits) w.toNat
  | .frame f => [f]
  | .code c => [c]

/-- The value of a table word as a number, bit 0 least significant. -/
def TableWord.value : TableWord → Nat
  | .request w => w.toNat
  | .frame f => f.toNat
  | .code c => c.toNat

end Sys2Proof
end

