-- ==== Sys2Proof/Machine/State.lean ====
section
/-! DEFINITION. The state of the block, as 10_state R20 to R50 gives it, and its value after reset (10_state R49). -/

namespace Sys2Proof.Machine

/-- An event of the output trace (10_state R28). -/
inductive Event where
  /-- The chip-select line made a digital output, level high. -/
  | csInit
  /-- One byte given to the serial-bus primitive. -/
  | tx (b : Byte)
  /-- A busy-wait of at least `ms` milliseconds. -/
  | delay (ms : Nat)
  /-- Interrupts suppressed from here. -/
  | critEnter
  /-- Suppression lifted. -/
  | critExit
  deriving DecidableEq, Repr

/-- What the block knows of the display's mode (10_state R26). -/
inductive LcdMode where
  | unknown
  | ready
  deriving DecidableEq, Repr

/-- The tachometer's states (10_state R30). -/
inductive TState where
  | uninitialized
  | configured
  | running
  deriving DecidableEq, Repr

/-- The string space's listed bytes: pairs of an address and a byte, addresses strictly rising (20_memory R60). -/
abbrev Memory := List Host.Cell

/-- The block. The comment before each group names the rule; the last two groups are the configuration the spec
leaves to the model and the model's own fields (INVENTORY, State). -/
structure State where
  -- sequencer (10_state R22)
  busy : Bool
  curOp : Nibble
  curArg : Word
  todo : List Event
  strActive : Bool
  strPtr : Addr
  resp : Word
  -- display unit (10_state R24 to R28)
  lcdCrit : Bool
  csConfigured : Bool
  lcdMode : LcdMode
  out : List Event
  -- tachometer configuration and interrupt enables (10_state R30 to R32)
  tstate : TState
  timerRun : Bool
  capCfg : Bool
  capIe : Bool
  vecEn : Bool
  gie : Bool
  -- tachometer data (10_state R33 to R38)
  counter : Half
  cap : Half
  pending : Bool
  currentVal : Half
  previousVal : Half
  interval : Word
  speed : Word
  ncap : Fin 3
  -- handler and status (10_state R41, R47)
  inHandler : Bool
  status : BitVec 2
  -- interfaces (00_scope R9, 20_memory R60)
  req : Option ReqWord
  doneCount : Nat
  strmem : Memory
  -- configuration the spec leaves to the model (00_scope R13)
  initPostSwitchDelayMs : Nat
  speedReadTearing : Bool
  -- the model's own
  readPos : Nat
  sentBefore : List Event
  agenda : List Choice
  draws : Nat
  probe : List Byte
  deriving DecidableEq, Repr

/-- Nothing stops the block with a fault: no condition does (60_exceptions R190), and every string address exists
(20_memory R60, R67). There is no constructor, so no step can answer one (log 24); safe, because the spec gives every
step its effect. -/
inductive Fault where
  deriving DecidableEq, Repr

/-- Why a step has no meaning. -/
inductive Refusal where
  /-- Raised by an arm of `exec` for an instruction that has no meaning yet; no arm does. Safe. -/
  | notModelled (mnemonic : String)
  /-- Raised by `step` when bytes placed from outside are no word of the table (wrong width, a bit above bit 35); the
  block itself never does. Safe: nothing is claimed of such bytes. -/
  | noTableWord (why : Reject)
  deriving DecidableEq, Repr

/-- The reset values of 10_state R49, and for what R49 does not name the values of log 3, 4, 5, 13, 14 and 1. -/
def State.reset : State where
  busy := false
  curOp := 0
  curArg := 0
  todo := []
  strActive := false
  strPtr := 0
  resp := 0
  lcdCrit := false
  csConfigured := false
  lcdMode := .unknown
  out := []
  tstate := .uninitialized
  timerRun := false
  capCfg := false
  capIe := false
  vecEn := false
  gie := false
  counter := 0
  cap := 0
  pending := false
  currentVal := 0
  previousVal := 0
  interval := 0
  speed := Config.defaultSpeed
  ncap := 0
  inHandler := false
  status := 0
  req := none
  doneCount := 0
  strmem := []
  initPostSwitchDelayMs := Config.initPostSwitchDelayMs
  speedReadTearing := Config.speedReadTearing
  readPos := 0
  sentBefore := []
  agenda := []
  draws := 0
  probe := []

end Sys2Proof.Machine
end

