-- ==== Sys2Proof/Machine/Operands.lean ====
section
/-! DEFINITION. Operand forms and the event sequences made from them: nibbles (30_encoding R86), frames (R87), byte
transfers (41_lcd R123), digits and characters (42_lcd R145 to R150, 30_encoding R92), the speed formula (43_tachometer
R169, R170), and the receiver view (30_encoding R91). -/

namespace Sys2Proof.Machine

/-! Nibbles and frames. -/

/-- `hi(b)`: the upper nibble, left in place (30_encoding R86). -/
def hiNibble (b : Byte) : Byte := b &&& 0xF0

/-- `lo(b)`: the lower nibble, moved to bits 7:4 (30_encoding R86). -/
def loNibble (b : Byte) : Byte := b <<< 4

/-- A control pattern without its enable bit, as the low bits of a frame: `c & 0xD` (41_lcd R120, R121). -/
def controlBits (c : Nibble) : Byte := (c &&& ~~~Config.ctrlEn).setWidth 8

/-- The enable bit in a frame (30_encoding R85). -/
def enableBit : Byte := Config.ctrlEn.setWidth 8

/-- `NIBBLE_WRITE(v, c)`: data and control with enable low, high, low (41_lcd R120), and no delay between them (R122).
That the enable pulse is wide enough for the display is a premise on the platform, which the block does not check
(70_reset R225; `BusTiming.pulseWidthMet`, log 26). -/
def nibbleWriteEvents (v : Byte) (c : Nibble) : List Event :=
  [.tx (hiNibble v ||| controlBits c),
   .tx (hiNibble v ||| controlBits c ||| enableBit),
   .tx (hiNibble v ||| controlBits c)]

/-- `BYTE_XFER(b, c)`: the two nibble transfers inside one critical section (41_lcd R123, R126). -/
def byteXferEvents (b : Byte) (c : Nibble) : List Event :=
  .critEnter :: (nibbleWriteEvents (hiNibble b) c ++ nibbleWriteEvents (loNibble b) c ++ [.critExit])

/-- The settle delay of a command: the numeric test `b < 4` (41_lcd R127). -/
def commandDelayMs (b : Byte) : Nat :=
  if b < Config.slowCmdLimit then Config.tCmdSlowMs else Config.tCmdFastMs

/-- `LCD_COMMAND(b)` as events (41_lcd R127). -/
def commandEvents (b : Byte) : List Event := byteXferEvents b 0x0 ++ [.delay (commandDelayMs b)]

/-- `LCD_DATA(b)` as events (41_lcd R128). -/
def dataEvents (b : Byte) : List Event := byteXferEvents b Config.ctrlRs ++ [.delay Config.tDataMs]

/-- Characters sent one after the other (42_lcd R140). -/
def textEvents (cs : List Byte) : List Event := cs.flatMap dataEvents

/-- `Delay(n)`, left out for 0 ms (10_state R28, 40_lcd_init R111). -/
def optionalDelay (ms : Nat) : List Event := if ms = 0 then [] else [.delay ms]

/-- The sequence of `LCD_INIT` with `INIT_POST_SWITCH_DELAY_MS = p` (40_lcd_init R111). -/
def initEvents (p : Nat) : List Event :=
  [.csInit, .delay Config.tInit0Ms] ++ nibbleWriteEvents Config.nibReset8 0 ++
  [.delay Config.tInit1Ms] ++ nibbleWriteEvents Config.nibReset8 0 ++
  [.delay Config.tInit2Ms] ++ nibbleWriteEvents Config.nibReset8 0 ++
  [.delay Config.tInit3Ms] ++ nibbleWriteEvents Config.nibSet4 0 ++
  optionalDelay p ++
  commandEvents Config.cmdFunctionSet ++ commandEvents Config.cmdEntryMode ++
  commandEvents Config.cmdClear ++ commandEvents Config.cmdDisplayOn

/-! Digits and characters. -/

/-- `digits(n, r)` by the source's recursion, at most `fuel` digits deep (42_lcd R145; log 25). -/
def digitsUpTo : Nat → Nat → Nat → List Nat
  | 0, _, _ => []
  | fuel + 1, n, r => if n < r then [n] else digitsUpTo fuel (n / r) r ++ [n % r]

/-- `digits(n, r)` of a 32-bit value (42_lcd R145). -/
def digits (n : Word) (r : Nat) : List Nat := digitsUpTo Config.maxDigits n.toNat r

/-- `digit_char(d)` (30_encoding R92, 42_lcd R147). -/
def digitChar (d : Nat) : Byte :=
  if d < 10 then Config.ch0 + BitVec.ofNat 8 d else Config.chA + BitVec.ofNat 8 (d - 10)

/-- The characters of `LCD_OUTUDEC n` (42_lcd R146). -/
def decimalText (n : Word) : List Byte := (digits n 10).map fun d => Config.ch0 + BitVec.ofNat 8 d

/-- The characters of `LCD_OUTUHEX n` (42_lcd R148). -/
def hexText (n : Word) : List Byte := (digits n 16).map digitChar

/-- The characters of `LCD_OUTUFIX n` (42_lcd R150). -/
def fixedText (n : Word) : List Byte :=
  if n > Config.uFixMax then Config.uFixOverflowText
  else decimalText (n / 10) ++ Config.chDot :: decimalText (n % 10)

/-! Speed. -/

/-- `interval = previousVal − currentVal`, 32 bits, modulo 2^32 (43_tachometer R169). -/
def intervalOf (prev cur : Half) : Word := prev.setWidth 32 - cur.setWidth 32

/-- The speed of an interval, guarded at zero (43_tachometer R170, R171). -/
def speedOf (interval : Word) : Word :=
  if interval = 0 then Config.degenerateSpeed
  else Config.clockHz / interval * Config.secPerMin / Config.gearRatio

/-- `v[8i+7:8i]` (43_tachometer R176). -/
def byteAt (v : Word) (i : Nat) : Byte := v.extractLsb' (8 * i) 8

/-- `dst` with `dst[8i+7:8i] <- src[8i+7:8i]` (43_tachometer R176). -/
def copyByte (i : Nat) (src dst : Word) : Word :=
  let m : Word := 0xFF <<< (8 * i)
  (dst &&& ~~~m) ||| (src &&& m)

/-! The trace as the receiver sees it. -/

/-- The latched pairs (register-select, nibble) of a trace, `p` the enable bit of the frame before it (30_encoding
R91). It is a function of the frames alone; what it says of the display rests on log 26 (`displayLatches`). -/
def receiverFrom (p : Bool) : List Event → List (Bool × Nibble)
  | [] => []
  | .tx f :: es =>
    if !p && f.getLsbD 1 then (f.getLsbD 0, f.extractLsb' 4 4) :: receiverFrom true es
    else receiverFrom (f.getLsbD 1) es
  | _ :: es => receiverFrom p es

/-- The receiver view of a trace (30_encoding R91, 41_lcd R125). -/
def receiverView (es : List Event) : List (Bool × Nibble) := receiverFrom false es

/-- What the platform's bus and the display fix between them, in any one unit of time: how long one transmission lasts,
the display's minimum enable pulse width, and the longest transmission the protocol assumes. The spec gives none of the
three numbers (70_reset R225, 91_not_in_source N35; log 26). -/
structure BusTiming where
  transmission : Nat
  minPulse : Nat
  longest : Nat
  deriving DecidableEq, Repr

/-- The premise of every claim about the display: one transmission, which is how long the enable pulse lasts, is no
shorter than the display's minimum and no longer than the protocol assumes (41_lcd R122, 70_reset R225, 60_exceptions
R193; UNVERIFIED, log 26). The block does not check it. -/
def BusTiming.pulseWidthMet (b : BusTiming) : Bool := b.minPulse ≤ b.transmission && b.transmission ≤ b.longest

/-- What the display latches of a trace: its receiver view where the premise is met, and no claim at all where it is not
(70_reset R225; 93_implementation_defined U7; log 26). -/
def displayLatches (b : BusTiming) (es : List Event) : Option (List (Bool × Nibble)) :=
  if b.pulseWidthMet then some (receiverView es) else none

/-- Latched pairs joined two by two into bytes, the first pair the upper nibble (30_encoding R91). A last pair with no
partner gives no byte: R91 does not say what becomes of it (DESIGN CHOICE, log 27). -/
def joinNibbles : List (Bool × Nibble) → List (Bool × Byte)
  | p :: q :: ps => (p.1, p.2 ++ q.2) :: joinNibbles ps
  | _ => []

/-- The bytes, each with its register-select, that a display in 4-bit mode reads from a trace, under the same premise
(30_encoding R91, 41_lcd R125, 70_reset R225; log 26). -/
def displayReads (b : BusTiming) (es : List Event) : Option (List (Bool × Byte)) :=
  (displayLatches b es).map joinNibbles

/-- The least number of milliseconds a trace takes: the sum of its delays (00_scope R11, 70_reset R240). -/
def minDelayMs : List Event → Nat
  | [] => 0
  | .delay n :: es => n + minDelayMs es
  | _ :: es => minDelayMs es

/-- The enable-inhibit level after a trace that starts at `c`, `none` where a section is entered inside a section or left
outside one (41_lcd R126). -/
def critLevel (c : Bool) : List Event → Option Bool
  | [] => some c
  | .critEnter :: es => if c then none else critLevel true es
  | .critExit :: es => if c then critLevel false es else none
  | _ :: es => critLevel c es

end Sys2Proof.Machine
end

