-- ==== Sys2Proof/Machine/Ops.lean ====
section
/-! DEFINITION. The operations every meaning is built from: the string space, emitting events, accepting a request,
the error conditions, and entering and leaving the interrupt handler. -/

namespace Sys2Proof.Machine

/-- An outcome of this machine. -/
abbrev Result := Host.Outcome State Fault Refusal

/-! The string space (20_memory). -/

/-- The byte listed at `a`, if any. -/
def Memory.lookup : Memory → Nat → Option Byte
  | [], _ => none
  | (x, b) :: m, a => if x = a then some b else Memory.lookup m a

/-- List `b` at `a`, addresses rising. -/
def Memory.store : Memory → Nat → Byte → Memory
  | [], a, b => [(a, b)]
  | (x, c) :: m, a, b =>
    if a < x then (a, b) :: (x, c) :: m
    else if a = x then (a, b) :: m
    else (x, c) :: Memory.store m a b

/-- Addresses at or above `lo`, strictly rising, inside the string space (20_memory R60). -/
def Memory.wfFrom : Nat → Memory → Bool
  | _, [] => true
  | lo, (x, _) :: m => decide (lo ≤ x) && decide (x < 2 ^ Config.strAddrBits) && Memory.wfFrom (x + 1) m

/-- The canonical form. An unlisted address is one State gives no byte for (it reads as a free value), so no listed byte
equals what an unlisted address reads as, and equal contents are equal lists (log 5). -/
def Memory.wf (m : Memory) : Bool := Memory.wfFrom 0 m

/-- `MemRead(a, 1)` (20_memory R61): always a byte, no side effect; the platform's own byte where State lists none. -/
def memRead (m : Memory) (a : Addr) : Byte := (Memory.lookup m a.toNat).getD (Config.strByte a)

/-- The platform changes a byte of the string space (20_memory R69); no rule of the block writes memory. -/
def platformWrite (a : Addr) (b : Byte) (s : State) : State :=
  { s with strmem := Memory.store s.strmem a.toNat b }

/-! Emitting events (10_state R28). -/

/-- The side effect of an event on the state. -/
def eventEffect (e : Event) (s : State) : State :=
  match e with
  | .csInit => { s with csConfigured := true }
  | .critEnter => { s with lcdCrit := true }
  | .critExit => { s with lcdCrit := false }
  | .tx _ => s
  | .delay _ => s

/-- `emit e`: the side effect, then `e` appended to `out` (00_scope R15, 10_state R22 (a)). -/
def emit (e : Event) (s : State) : State :=
  { eventEffect e s with out := s.out ++ [e] }

/-- The events of a micro-sequence, one after the other. -/
def emitAll : List Event → State → State
  | [], s => s
  | e :: es, s => emitAll es (emit e s)

/-- A micro-sequence run in place (00_scope R15 `call`, log 9). It belongs to the main context, which does not step
while the handler runs (10_state R41). -/
def runInPlace (es : List Event) (s : State) : Result :=
  .next (if s.inHandler then s else emitAll es s)

/-! Accepting a request (10_state R22). -/

/-- `Accept` is enabled iff `busy = 0` and `in_handler = 0` (10_state R22). -/
def canAccept (s : State) : Bool := !s.busy && !s.inHandler

/-- What `Accept` does for every request: `busy`, `cur_op`, `cur_arg` (10_state R22). -/
def latchRequest (op : Nibble) (arg : Word) (s : State) : State :=
  { s with busy := true, curOp := op, curArg := arg }

/-- Load the event list of an operation that reads no string (10_state R22, R23; log 12). -/
def loadTodo (es : List Event) (s : State) : State :=
  { s with todo := es, strActive := false }

/-- The `Accept` step of a request whose own part is `load`: not enabled, the request stays with the host and nothing
changes (00_scope R9, log 2). -/
def acceptStep (op : Nibble) (arg : Word) (load : State → State) (s : State) : Result :=
  .next (if canAccept s then load (latchRequest op arg s) else s)

/-! The request port (00_scope R9). -/

/-- The host puts a request on the port; it holds one until it is accepted (log 3). -/
def presentRequest (w : ReqWord) (s : State) : State :=
  match s.req with
  | none => { s with req := some w }
  | some _ => s

/-- The handshake: an accepted request leaves the port, another stays (00_scope R9). -/
def takeRequest (s : State) : State :=
  if canAccept s then { s with req := none } else s

/-! Error conditions (60_exceptions R190): each records itself and changes nothing else. -/

/-- `raise CaptureDegenerate`: status bit 0 (60_exceptions R190, R192). -/
def raiseCaptureDegenerate (s : State) : State := { s with status := s.status ||| 1 }

/-- `raise IllegalOp`: status bit 1 (60_exceptions R190, R194). -/
def raiseIllegalOp (s : State) : State := { s with status := s.status ||| 2 }

/-- A request that selects nothing: `IllegalOp`, no event, and the next `Seq` completes it (30_encoding R83, 42_lcd
R143; log 10, 11). -/
def loadIllegal (s : State) : State := raiseIllegalOp (loadTodo [] s)

/-! The capture-match interrupt (60_exceptions R195 to R200). -/

/-- The take condition (60_exceptions R196). -/
def canTakeInterrupt (s : State) : Bool :=
  s.pending && s.capIe && s.vecEn && s.gie && !s.lcdCrit && !s.inHandler

/-- Taking the interrupt: it saves nothing and goes nowhere (60_exceptions R199). -/
def enterHandler (s : State) : State := { s with pending := false, inHandler := true }

/-- Returning from it: the main context resumes where it was (60_exceptions R200). -/
def leaveHandler (s : State) : State := { s with inHandler := false }

/-! Placing a word from outside (log 6). -/

/-- A request on the port and the host's move next. -/
def placeRequest (w : ReqWord) (s : State) : State :=
  { s with req := some w, agenda := .accept :: s.agenda, probe := [] }

/-- Bytes of a table word to be run next. -/
def placeProbe (bs : List Byte) (s : State) : State := { s with probe := bs }

end Sys2Proof.Machine
end

