-- ==== Sys2Proof/Machine/Display.lean ====
section
/-! DEFINITION. The display requests of 40_lcd_init and 41_lcd: their `Accept` steps, and the completion effect of
`LCD_INIT`. The events themselves are emitted by `Seq` (10_state R22). -/

namespace Sys2Proof.Machine

/-- `LCD_INIT` (40_lcd_init R110, R111). -/
def execLcdInit (arg : Word) (s : State) : Result :=
  acceptStep 0x0 arg (loadTodo (initEvents s.initPostSwitchDelayMs)) s

/-- The completing step of `LCD_INIT`: `lcd_mode <- Ready` (40_lcd_init R110, 10_state R26). -/
def lcdInitDone (s : State) : State := { s with lcdMode := .ready }

/-- `LCD_CLEAR`: `LCD_COMMAND(CMD_CLEAR)` and nothing else (41_lcd R129). -/
def execLcdClear (arg : Word) (s : State) : Result :=
  acceptStep 0x1 arg (loadTodo (commandEvents Config.cmdClear)) s

/-- `LCD_COMMAND b` (41_lcd R127). -/
def execLcdCommand (hi : BitVec 24) (b : Byte) (s : State) : Result :=
  acceptStep 0x2 (byteArg hi b) (loadTodo (commandEvents b)) s

/-- `LCD_DATA b` (41_lcd R128). -/
def execLcdData (hi : BitVec 24) (b : Byte) (s : State) : Result :=
  acceptStep 0x3 (byteArg hi b) (loadTodo (dataEvents b)) s

/-- `LCD_HOME`, which stands for `LCD_COMMAND 0x02` (30_encoding R94). -/
def execLcdHome (hi : BitVec 24) (s : State) : Result :=
  acceptStep 0x2 (byteArg hi Config.cmdHome) (loadTodo (commandEvents Config.cmdHome)) s

end Sys2Proof.Machine
end

