-- ==== Sys2Proof/Machine/Reserved.lean ====
section
/-! DEFINITION. The six reserved operation codes (30_encoding R83): `IllegalOp`, no event, completed by the next `Seq`
(log 10, 11). -/

namespace Sys2Proof.Machine

/-- Operation code 0xA (30_encoding R83). -/
def execReservedA (arg : Word) (s : State) : Result := acceptStep 0xA arg loadIllegal s

/-- Operation code 0xB (30_encoding R83). -/
def execReservedB (arg : Word) (s : State) : Result := acceptStep 0xB arg loadIllegal s

/-- Operation code 0xC (30_encoding R83). -/
def execReservedC (arg : Word) (s : State) : Result := acceptStep 0xC arg loadIllegal s

/-- Operation code 0xD (30_encoding R83). -/
def execReservedD (arg : Word) (s : State) : Result := acceptStep 0xD arg loadIllegal s

/-- Operation code 0xE (30_encoding R83). -/
def execReservedE (arg : Word) (s : State) : Result := acceptStep 0xE arg loadIllegal s

/-- Operation code 0xF (30_encoding R83). -/
def execReservedF (arg : Word) (s : State) : Result := acceptStep 0xF arg loadIllegal s

end Sys2Proof.Machine
end

