-- ==== Sys2Proof/Machine/Flags.lean ====
section
/-! DEFINITION. The one-bit conditions (10_state R29): the two sticky status bits (R47), the validity wires (R46), the
count that gates them (R38) and the degenerate test (43_tachometer R167). The block has no arithmetic flags. -/

namespace Sys2Proof.Machine

/-- `status.degenerate`, bit 0 (10_state R47). -/
def statusDegenerate (s : State) : Bool := s.status.getLsbD 0

/-- `status.illegal_op`, bit 1 (10_state R47). -/
def statusIllegalOp (s : State) : Bool := s.status.getLsbD 1

/-- `interval_valid` (10_state R46). -/
def intervalValid (s : State) : Bool := s.ncap == 2

/-- `speed_valid` (10_state R46). -/
def speedValid (s : State) : Bool := s.ncap == 2

/-- `tach_running` (10_state R46). -/
def tachRunning (s : State) : Bool := s.tstate == .running

/-- `min(ncap + 1, 2)` (10_state R38). -/
def ncapNext (n : Fin 3) : Fin 3 :=
  match n with
  | 0 => 1
  | 1 => 2
  | 2 => 2

/-- The condition of `CaptureDegenerate`: two real captures, equal or inverted (43_tachometer R167, R171, R172). -/
def isDegenerate (ncap : Fin 3) (interval : Word) (prev cur : Half) : Bool :=
  ncap != 0 && (interval == 0 || decide (prev < cur))

end Sys2Proof.Machine
end

