-- ==== Sys2Proof/Machine/Tachometer.lean ====
section
/-! DEFINITION. The tachometer unit (43_tachometer): its two requests with their completing steps, the handler's two
steps, and the environment's `TICK` and `EDGE`. -/

namespace Sys2Proof.Machine

/-- `TACH_INIT`: `Accept` loads nothing; the completing step configures (43_tachometer R161). -/
def execTachInit (arg : Word) (s : State) : Result := acceptStep 0x8 arg (loadTodo []) s

/-- The completing step of `TACH_INIT`, one atomic action (43_tachometer R161, R162). -/
def tachInitDone (s : State) : State :=
  { s with
    capCfg := true
    counter := Config.counterMax
    capIe := true
    pending := false
    timerRun := true
    vecEn := true
    gie := true
    tstate := if s.tstate = .uninitialized then .configured else s.tstate }

/-- What `Accept` of `TACH_GETINTERVAL` loads: no event (43_tachometer R175); a torn read starts at byte 0 (R176,
log 14). -/
def loadSpeedRead (s : State) : State := { loadTodo [] s with readPos := 0 }

/-- `TACH_GETINTERVAL` (43_tachometer R175). -/
def execTachGetInterval (arg : Word) (s : State) : Result := acceptStep 0x9 arg loadSpeedRead s

/-- The completing step of `TACH_GETINTERVAL`: one atomic read of `speed`, unless the bytes were read one by one
(43_tachometer R175, R176). -/
def tachGetIntervalDone (s : State) : State :=
  if s.speedReadTearing then s else { s with resp := s.speed }

/-- A byte of `speed` is still to be read (43_tachometer R176, `SPEED_READ_TEARING = true`). -/
def tornReadLeft (s : State) : Bool := s.curOp == 0x9 && s.speedReadTearing && decide (s.readPos < 4)

/-- One byte of a torn read (43_tachometer R176). -/
def tornReadStep (s : State) : State :=
  { s with resp := copyByte s.readPos s.speed s.resp, readPos := s.readPos + 1 }

/-- `IRQ_ACK`: the handler is entered where the take condition holds; not enabled, nothing happens (43_tachometer
R166, 60_exceptions R196, R199; log 2). -/
def execIrqAck (s : State) : Result := .next (if canTakeInterrupt s then enterHandler s else s)

/-- The shift of a capture and what is computed from it (43_tachometer R168 to R171). -/
def shiftCapture (s : State) : State :=
  { s with
    previousVal := s.currentVal
    currentVal := s.cap
    interval := intervalOf s.currentVal s.cap
    speed := speedOf (intervalOf s.currentVal s.cap) }

/-- `CaptureDegenerate` is raised for a shifted record that is degenerate (43_tachometer R167, R171, R172). -/
def flagCapture (s : State) : State :=
  if isDegenerate s.ncap s.interval s.previousVal s.currentVal then raiseCaptureDegenerate s else s

/-- `ncap <- min(ncap + 1, 2)` (10_state R38). -/
def countCapture (s : State) : State := { s with ncap := ncapNext s.ncap }

/-- The body of `IRQ_BODY` (43_tachometer R167): shift, flag, count, return. -/
def irqBodyStep (s : State) : State := leaveHandler (countCapture (flagCapture (shiftCapture s)))

/-- `IRQ_BODY`, enabled iff `in_handler = 1` (43_tachometer R167; log 2). -/
def execIrqBody (s : State) : Result := .next (if s.inHandler then irqBodyStep s else s)

/-- `TICK`: the counter counts down and wraps while the timer runs (43_tachometer R163; PRESUMED wrap, log 17). -/
def execTick (s : State) : Result :=
  .next (if s.timerRun then
    { s with counter := if s.counter = 0 then Config.counterMax else s.counter - 1 } else s)

/-- `EDGE`: the hardware captures whether or not the last capture was handled (43_tachometer R164, 60_exceptions R197;
PRESUMED, log 19). -/
def execEdge (s : State) : Result :=
  .next (if s.timerRun && s.capCfg then
    { s with
      cap := s.counter
      pending := true
      tstate := if s.tstate = .configured then .running else s.tstate } else s)

end Sys2Proof.Machine
end

