-- ==== Sys2Proof/Machine/Text.lean ====
section
/-! DEFINITION. Strings and numbers (42_lcd): the `Accept` steps and the string loop. -/

namespace Sys2Proof.Machine

/-- What `Accept` of `LCD_OUTSTRING a` loads (42_lcd R141): the null string is `IllegalOp` (R143). -/
def loadString (a : Addr) (s : State) : State :=
  if a = Config.strNull then loadIllegal s
  else { s with todo := [], strActive := true, strPtr := a }

/-- `LCD_OUTSTRING a` (42_lcd R141, R143). -/
def execLcdOutString (a : Addr) (s : State) : Result := acceptStep 0x4 a (loadString a) s

/-- One iteration of the string loop: one `MemRead`, the pointer advanced modulo 2^32, then either the end or the events
of one character (42_lcd R141, 20_memory R62). -/
def stringStep (s : State) : State :=
  if memRead s.strmem s.strPtr = 0 then { s with strPtr := s.strPtr + 1, strActive := false }
  else { s with strPtr := s.strPtr + 1, todo := dataEvents (memRead s.strmem s.strPtr) }

/-- `LCD_OUTUDEC n` (42_lcd R146). -/
def execLcdOutUDec (n : Word) (s : State) : Result :=
  acceptStep 0x5 n (loadTodo (textEvents (decimalText n))) s

/-- `LCD_OUTUHEX n` (42_lcd R148). -/
def execLcdOutUHex (n : Word) (s : State) : Result :=
  acceptStep 0x6 n (loadTodo (textEvents (hexText n))) s

/-- `LCD_OUTUFIX n` (42_lcd R150). -/
def execLcdOutUFix (n : Word) (s : State) : Result :=
  acceptStep 0x7 n (loadTodo (textEvents (fixedText n))) s

end Sys2Proof.Machine
end

