-- ==== Sys2Proof/Machine/Agents.lean ====
section
/-! DEFINITION. The steps that are not one request's: `Accept` of any word, `Seq` (10_state R22) and `RESET` (70_reset
R220). -/

namespace Sys2Proof.Machine

/-- `Accept(req)` (10_state R22): `op` selects the operation, `arg` its operand (30_encoding R80 to R83, R94). -/
def execAccept (w : ReqWord) (s : State) : Result :=
  let arg := reqArg w
  match (reqOp w).toNat with
  | 0 => execLcdInit arg s
  | 1 => execLcdClear arg s
  | 2 => execLcdCommand (argHi arg) (argByte arg) s
  | 3 => execLcdData (argHi arg) (argByte arg) s
  | 4 => execLcdOutString arg s
  | 5 => execLcdOutUDec arg s
  | 6 => execLcdOutUHex arg s
  | 7 => execLcdOutUFix arg s
  | 8 => execTachInit arg s
  | 9 => execTachGetInterval arg s
  | 10 => execReservedA arg s
  | 11 => execReservedB arg s
  | 12 => execReservedC arg s
  | 13 => execReservedD arg s
  | 14 => execReservedE arg s
  | _ => execReservedF arg s

/-- The completion effect of the current operation; only three have one (10_state R22 (c), 90_conflicts C10). -/
def completionEffect (s : State) : State :=
  match s.curOp.toNat with
  | 0 => lcdInitDone s
  | 8 => tachInitDone s
  | 9 => tachGetIntervalDone s
  | _ => s

/-- The end of an operation: `busy <- 0` and `done` to the host (10_state R22 (c), 30_encoding R84; log 4). -/
def signalDone (s : State) : State := { s with busy := false, doneCount := s.doneCount + 1 }

/-- The completing step (10_state R22 (c)). -/
def completeStep (s : State) : State := signalDone (completionEffect s)

/-- One enabled `Seq` step: the head event, else a string iteration, else a byte of a torn read, else completion
(10_state R22, 43_tachometer R176). -/
def seqStep (s : State) : State :=
  match s.todo with
  | e :: rest => emit e { s with todo := rest }
  | [] =>
    if s.strActive then stringStep s
    else if tornReadLeft s then tornReadStep s
    else completeStep s

/-- `Seq` is enabled iff `busy = 1` and `in_handler = 0` (10_state R22). -/
def canSeq (s : State) : Bool := s.busy && !s.inHandler

/-- `Seq`; not enabled, nothing happens (10_state R22; log 2). -/
def execSeq (s : State) : Result := .next (if canSeq s then seqStep s else s)

/-- Hardware reset: every element of the block at its reset value (70_reset R220, R221). What is outside the block
stays: the host's request, the string space, the configuration, the schedule; and the events already sent are kept
(70_reset R222; log 15). -/
def hardwareReset (s : State) : State :=
  { State.reset with
    req := s.req
    strmem := s.strmem
    initPostSwitchDelayMs := s.initPostSwitchDelayMs
    speedReadTearing := s.speedReadTearing
    sentBefore := s.sentBefore ++ s.out
    agenda := s.agenda
    draws := s.draws
    probe := s.probe }

/-- `RESET` (70_reset R220). -/
def execReset (s : State) : Result := .next (hardwareReset s)

end Sys2Proof.Machine
end

