-- ==== Sys2Proof/Machine/Frames.lean ====
section
/-! DEFINITION. The rows below the request port: the frame bytes (30_encoding R85, R87), the display codes (R88, R89)
and the micro-operations (41_lcd R120, R123). Each is the micro-sequence of its rule run in place (00_scope R15,
log 9). -/

namespace Sys2Proof.Machine

/-- A transmission with enable low, register-select 0 (30_encoding R87, frames 1 and 3). -/
def execFrameIdleCmd (d : Nibble) (s : State) : Result := runInPlace [.tx (frameByte d false false false false)] s

/-- A transmission with enable high, register-select 0 (30_encoding R87, frame 2). -/
def execFrameStrobeCmd (d : Nibble) (s : State) : Result := runInPlace [.tx (frameByte d false false true false)] s

/-- A transmission with enable low, register-select 1 (30_encoding R87, frames 1 and 3). -/
def execFrameIdleData (d : Nibble) (s : State) : Result := runInPlace [.tx (frameByte d false false false true)] s

/-- A transmission with enable high, register-select 1 (30_encoding R87, frame 2). -/
def execFrameStrobeData (d : Nibble) (s : State) : Result := runInPlace [.tx (frameByte d false false true true)] s

/-- The transmission of a frame byte given by its fields (30_encoding R85). -/
def execFrameGeneral (d : Nibble) (k3 k2 en rs : Bool) (s : State) : Result :=
  runInPlace [.tx (frameByte d k3 k2 en rs)] s

/-- `CMD_CLEAR`, sent as `LCD_COMMAND` sends a code (30_encoding R88, 41_lcd R127). -/
def execCmdClear (s : State) : Result := runInPlace (commandEvents Config.cmdClear) s

/-- `CMD_HOME` (30_encoding R88, 41_lcd R127). -/
def execCmdHome (s : State) : Result := runInPlace (commandEvents Config.cmdHome) s

/-- `CMD_ENTRY_MODE` (30_encoding R88, 41_lcd R127). -/
def execCmdEntryMode (s : State) : Result := runInPlace (commandEvents Config.cmdEntryMode) s

/-- `CMD_DISPLAY_ON` (30_encoding R88, 41_lcd R127). -/
def execCmdDisplayOn (s : State) : Result := runInPlace (commandEvents Config.cmdDisplayOn) s

/-- `CMD_FUNCTION_SET` (30_encoding R88, 41_lcd R127). -/
def execCmdFunctionSet (s : State) : Result := runInPlace (commandEvents Config.cmdFunctionSet) s

/-- `NIB_RESET8`, sent by one `NIBBLE_WRITE` with control 0 (30_encoding R89). -/
def execNibReset8 (s : State) : Result := runInPlace (nibbleWriteEvents Config.nibReset8 0) s

/-- `NIB_SET4`, sent by one `NIBBLE_WRITE` with control 0 (30_encoding R89). -/
def execNibSet4 (s : State) : Result := runInPlace (nibbleWriteEvents Config.nibSet4 0) s

/-- `NIBBLE_WRITE(v, c)` (41_lcd R120, R121). -/
def execNibbleWrite (v : Byte) (c : Nibble) (s : State) : Result := runInPlace (nibbleWriteEvents v c) s

/-- `BYTE_XFER(b, c)` (41_lcd R123). -/
def execByteXfer (b : Byte) (c : Nibble) (s : State) : Result := runInPlace (byteXferEvents b c) s

end Sys2Proof.Machine
end

