-- ==== Sys2Proof/Machine/Dispatch.lean ====
section
/-! DEFINITION. One arm per row of the opcode table. -/

namespace Sys2Proof.Machine

def exec (i : Instr) (s : State) : Host.Outcome State Fault Refusal :=
  match i with
  | .lcdInit arg => Sys2Proof.Machine.execLcdInit arg s
  | .lcdClear arg => Sys2Proof.Machine.execLcdClear arg s
  | .lcdCommand hi b => Sys2Proof.Machine.execLcdCommand hi b s
  | .lcdData hi b => Sys2Proof.Machine.execLcdData hi b s
  | .lcdOutString a => Sys2Proof.Machine.execLcdOutString a s
  | .lcdOutUDec n => Sys2Proof.Machine.execLcdOutUDec n s
  | .lcdOutUHex n => Sys2Proof.Machine.execLcdOutUHex n s
  | .lcdOutUFix n => Sys2Proof.Machine.execLcdOutUFix n s
  | .tachInit arg => Sys2Proof.Machine.execTachInit arg s
  | .tachGetInterval arg => Sys2Proof.Machine.execTachGetInterval arg s
  | .reservedA arg => Sys2Proof.Machine.execReservedA arg s
  | .reservedB arg => Sys2Proof.Machine.execReservedB arg s
  | .reservedC arg => Sys2Proof.Machine.execReservedC arg s
  | .reservedD arg => Sys2Proof.Machine.execReservedD arg s
  | .reservedE arg => Sys2Proof.Machine.execReservedE arg s
  | .reservedF arg => Sys2Proof.Machine.execReservedF arg s
  | .lcdHome hi => Sys2Proof.Machine.execLcdHome hi s
  | .frameIdleCmd d => Sys2Proof.Machine.execFrameIdleCmd d s
  | .frameStrobeCmd d => Sys2Proof.Machine.execFrameStrobeCmd d s
  | .frameIdleData d => Sys2Proof.Machine.execFrameIdleData d s
  | .frameStrobeData d => Sys2Proof.Machine.execFrameStrobeData d s
  | .frameGeneral d k3 k2 en rs => Sys2Proof.Machine.execFrameGeneral d k3 k2 en rs s
  | .cmdClear => Sys2Proof.Machine.execCmdClear s
  | .cmdHome => Sys2Proof.Machine.execCmdHome s
  | .cmdEntryMode => Sys2Proof.Machine.execCmdEntryMode s
  | .cmdDisplayOn => Sys2Proof.Machine.execCmdDisplayOn s
  | .cmdFunctionSet => Sys2Proof.Machine.execCmdFunctionSet s
  | .nibReset8 => Sys2Proof.Machine.execNibReset8 s
  | .nibSet4 => Sys2Proof.Machine.execNibSet4 s
  | .nibbleWrite v c => Sys2Proof.Machine.execNibbleWrite v c s
  | .byteXfer b c => Sys2Proof.Machine.execByteXfer b c s
  | .irqAck => Sys2Proof.Machine.execIrqAck s
  | .irqBody => Sys2Proof.Machine.execIrqBody s
  | .tick => Sys2Proof.Machine.execTick s
  | .edge => Sys2Proof.Machine.execEdge s
  | .reset => Sys2Proof.Machine.execReset s
  | .accept req => Sys2Proof.Machine.execAccept req s
  | .seq => Sys2Proof.Machine.execSeq s

end Sys2Proof.Machine
end

