-- ==== Sys2Proof/Machine/Fetch.lean ====
section
/-! DEFINITION. What the next step runs: the next move of the interleaving (60_exceptions R201, log 1), turned into the
instruction its agent performs, or a table word placed from outside (log 6). -/

namespace Sys2Proof.Machine

/-- The next move: the head of the agenda, else the next free draw (60_exceptions R201, log 1). -/
def nextChoice (s : State) : Choice × State :=
  match s.agenda with
  | c :: rest => (c, { s with agenda := rest })
  | [] => (Config.freeChoice s.draws, { s with draws := s.draws + 1 })

/-- The instruction a move performs and the state it performs it on: `present` and `strWrite` are not steps of the block,
and `accept` runs the request on the port, if there is one (00_scope R9, R16). -/
def instrOfChoice (c : Choice) (s : State) : Option Instr × State :=
  match c with
  | .present w => (none, presentRequest w s)
  | .strWrite a b => (none, platformWrite a b s)
  | .accept =>
    match s.req with
    | none => (none, s)
    | some w => (some (decodeRequest w), takeRequest s)
  | .seq => (some .seq, s)
  | .irqAck => (some .irqAck, s)
  | .irqBody => (some .irqBody, s)
  | .tick => (some .tick, s)
  | .edge => (some .edge, s)
  | .reset => (some .reset, s)

/-- What the next step runs, or why the placed bytes are no table word. -/
def fetch (s : State) : Except Reject (Option Instr × State) :=
  match s.probe with
  | [] => .ok (instrOfChoice (nextChoice s).1 (nextChoice s).2)
  | b :: bs =>
    match decodeBytes (b :: bs) with
    | .ok i => .ok (some i, { s with probe := [] })
    | .error why => .error why

/-- A table word of `nbits` bits placed so that the next step runs it: a request on the port with the host's move next,
anything else as bytes (log 6). -/
def placeTableWord (s : State) (nbits w : Nat) : State :=
  if byteCount nbits = byteCount Config.reqBits ∧ w < 2 ^ Config.reqBits then
    placeRequest (BitVec.ofNat Config.reqBits w) s
  else placeProbe (natToBytes (byteCount nbits) w) s

end Sys2Proof.Machine
end

