-- ==== Sys2Proof/Machine/Step.lean ====
section
/-! DEFINITION. One atomic step of the machine (00_scope R16). -/

namespace Sys2Proof.Machine

/-- One step: fetch what runs next and run it. -/
def step (s : State) : Host.Outcome State Fault Refusal :=
  match fetch s with
  | .error why => .refused (.noTableWord why)
  | .ok (none, t) => .next t
  | .ok (some i, t) => exec i t

/-- The state with a table word where `step` fetches its next instruction (log 6). -/
def State.withFetchWord (s : State) (nbits w : Nat) : State := placeTableWord s nbits w

end Sys2Proof.Machine
end

