-- ==== Sys2Proof/Safety.lean ====
section
/-! DEFINITION. What a sound state is: the invariant the rules give together, and the views in which claims about one
unit are stated. -/

namespace Sys2Proof.Machine

/-- An event the block may emit: control bits 3 and 2 of a frame are 0 (30_encoding R85), and no delay is of 0 ms
(10_state R28). -/
def eventOk : Event → Bool
  | .tx f => !f.getLsbD 3 && !f.getLsbD 2
  | .delay n => n != 0
  | _ => true

/-- Only agents move: no word from outside is waiting to be run in place (log 6). -/
def agentsOnly (s : State) : Prop := s.probe = []

/-- The state invariant. Each clause cites the rule it comes from. -/
structure Sound (s : State) : Prop where
  /-- The string space is in canonical form (20_memory R60). -/
  memory : Memory.wf s.strmem = true
  /-- No word from outside waits (log 6). -/
  agents : agentsOnly s
  /-- `TACH_INIT` sets the five configuration and enable bits together (10_state R31, R32; 95_test_vectors V9). -/
  enables : s.capCfg = s.timerRun ∧ s.capIe = s.timerRun ∧ s.vecEn = s.timerRun ∧ s.gie = s.timerRun
  /-- `Uninitialized` iff `timer_run = 0` (10_state R30). -/
  uninitialized : s.tstate = .uninitialized ↔ s.timerRun = false
  /-- A capture, a handler run in progress or done means `Running` (10_state R30). -/
  running : s.pending = true ∨ s.inHandler = true ∨ s.ncap ≠ 0 → s.tstate = .running
  /-- An idle sequencer has nothing left to do (10_state R22). -/
  idle : s.busy = false → s.todo = [] ∧ s.strActive = false
  /-- The string loop runs for `LCD_OUTSTRING` only (10_state R22). -/
  string : s.strActive = true → s.curOp = 0x4
  /-- The trace enters and leaves critical sections in turn, and `lcd_crit` is its level (10_state R24, 41_lcd R126). -/
  critOut : critLevel false s.out = some s.lcdCrit
  /-- What is left of the operation leaves every critical section it enters (41_lcd R126). -/
  critTodo : critLevel s.lcdCrit s.todo = some false
  /-- The handler never runs inside a critical section (41_lcd R126, 60_exceptions R199). -/
  handler : s.inHandler = true → s.lcdCrit = false
  /-- Every event emitted or to be emitted is one the block may emit (30_encoding R85, 10_state R28). -/
  events : (∀ e ∈ s.out, eventOk e = true) ∧ (∀ e ∈ s.todo, eventOk e = true)
  /-- `interval = previousVal − currentVal` (43_tachometer R169). -/
  interval : s.interval = intervalOf s.previousVal s.currentVal
  /-- `speed` is that of `interval` (43_tachometer R170, R171). -/
  speed : s.speed = speedOf s.interval
  /-- Before two handler runs the speed is 0 and nothing is flagged; before one, nothing was captured into the record
  (43_tachometer R172, R173). -/
  early : (s.ncap ≠ 2 → s.speed = 0 ∧ statusDegenerate s = false) ∧ (s.ncap = 0 → s.currentVal = 0)
  /-- `Ready` only after the chip select was configured (40_lcd_init R110, R115). -/
  ready : s.lcdMode = .ready → s.csConfigured = true
  /-- `LCD_INIT` configures the chip select before it can complete (40_lcd_init R111). -/
  init : s.busy = true → s.curOp = 0x0 → s.csConfigured = true ∨ Event.csInit ∈ s.todo
  /-- A torn read has at most four bytes (43_tachometer R176). -/
  torn : s.readPos ≤ 4

/-- The display unit with the sequencer, its trace and the string space: what no tachometer data may reach (00_scope
R2, 44_control R184). -/
def displayView (s : State) :=
  (s.busy, s.curOp, s.curArg, s.todo, s.strActive, s.strPtr, s.lcdCrit, s.csConfigured, s.lcdMode, s.out, s.strmem)

/-- The tachometer unit: configuration, capture data and the handler (44_control R184). -/
def tachView (s : State) :=
  (s.tstate, s.timerRun, s.capCfg, s.capIe, s.vecEn, s.gie, s.counter, s.cap, s.pending, s.currentVal, s.previousVal,
    s.interval, s.speed, s.ncap, s.inHandler)

/-- What a reset does not change because it is outside the block (log 15). -/
def outsideView (s : State) :=
  (s.req, s.strmem, s.initPostSwitchDelayMs, s.speedReadTearing, s.agenda, s.draws, s.probe)

/-- `k` enabled `Seq` steps in a row: an admitted run in which only the sequencer moves (60_exceptions R201). -/
def seqSteps : Nat → State → State
  | 0, s => s
  | k + 1, s => seqSteps k (if canSeq s then seqStep s else s)

end Sys2Proof.Machine
end

