-- ==== Sys2Proof/Certificates/Slice0/Obligations.lean ====
section
/-! DEFINITION. The statements for the provers. The event lists and texts they compare with are written out here from
the rules, independently of the meanings. -/

namespace Sys2Proof.Claims

open Sys2Proof Sys2Proof.Machine

/-- The main context may accept a request and no string is half sent (10_state R22). -/
def Idle (s : State) : Prop := s.busy = false ∧ s.inHandler = false ∧ s.strActive = false

/-- A sequencer at work that may step (10_state R22). -/
def Working (s : State) : Prop := s.busy = true ∧ s.inHandler = false

/-- The nine events of a command byte (41_lcd R127). -/
def commandNine (b : Byte) : List Event :=
  [.critEnter, .tx (b &&& 0xF0), .tx (b &&& 0xF0 ||| 0x02), .tx (b &&& 0xF0),
   .tx (b <<< 4), .tx (b <<< 4 ||| 0x02), .tx (b <<< 4), .critExit, .delay (if b.toNat < 4 then 2 else 1)]

/-- The nine events of a character (41_lcd R128). -/
def dataNine (b : Byte) : List Event :=
  [.critEnter, .tx (b &&& 0xF0 ||| 0x01), .tx (b &&& 0xF0 ||| 0x03), .tx (b &&& 0xF0 ||| 0x01),
   .tx (b <<< 4 ||| 0x01), .tx (b <<< 4 ||| 0x03), .tx (b <<< 4 ||| 0x01), .critExit, .delay 1]

/-- The decimal digits of a number as ASCII, most significant first, `0` for zero (42_lcd R145, R146). -/
def decimalAscii (n : Nat) : List Byte :=
  if n = 0 then [0x30] else (Nat.digits 10 n).reverse.map fun d => BitVec.ofNat 8 (48 + d)

/-- The upper-case hexadecimal digits of a number as ASCII (42_lcd R147, R148). -/
def hexAscii (n : Nat) : List Byte :=
  if n = 0 then [0x30]
  else (Nat.digits 16 n).reverse.map fun d => BitVec.ofNat 8 (if d < 10 then 48 + d else 55 + d)

/-- The text of a fixed-point number (42_lcd R150). -/
def fixedAscii (n : Nat) : List Byte :=
  if 9999 < n then [0x2A, 0x2E, 0x2A, 0x2A, 0x2A]
  else decimalAscii (n / 10) ++ [0x2E, BitVec.ofNat 8 (48 + n % 10)]

/-- The trace of `LCD_INIT` (40_lcd_init R112), `p` the open wait of state I9. -/
def initTrace (p : Nat) : List Event :=
  [.csInit, .delay 20, .tx 0x30, .tx 0x32, .tx 0x30, .delay 5, .tx 0x30, .tx 0x32, .tx 0x30, .delay 1,
   .tx 0x30, .tx 0x32, .tx 0x30, .delay 1, .tx 0x20, .tx 0x22, .tx 0x20] ++
  (if p = 0 then [] else [.delay p]) ++
  [.critEnter, .tx 0x20, .tx 0x22, .tx 0x20, .tx 0x80, .tx 0x82, .tx 0x80, .critExit, .delay 1,
   .critEnter, .tx 0x00, .tx 0x02, .tx 0x00, .tx 0x60, .tx 0x62, .tx 0x60, .critExit, .delay 1,
   .critEnter, .tx 0x00, .tx 0x02, .tx 0x00, .tx 0x10, .tx 0x12, .tx 0x10, .critExit, .delay 2,
   .critEnter, .tx 0x00, .tx 0x02, .tx 0x00, .tx 0xF0, .tx 0xF2, .tx 0xF0, .critExit, .delay 1]

/-- A string operation under way over a string space with no zero byte (42_lcd R144), only agents moving (log 6). -/
def HungOnString (s : State) : Prop :=
  s.probe = [] ∧ s.busy = true ∧ s.strActive = true ∧ ∀ a, memRead s.strmem a ≠ 0

/-- The string space holds the characters `cs` from `a` on, none of them 0, and then a 0 (42_lcd R142). -/
def StringAt (m : Memory) (a : Addr) (cs : List Byte) : Prop :=
  (∀ c ∈ cs, c ≠ 0) ∧ (∀ k (h : k < cs.length), memRead m (a + BitVec.ofNat 32 k) = cs[k]) ∧
  memRead m (a + BitVec.ofNat 32 cs.length) = 0

/-- What the display unit's state is after an operation that sent `es` and left no string pending: the request latched,
the events in the trace, the operation done (10_state R22). -/
def afterOperation (op : Nibble) (arg : Word) (es : List Event) (s : State) : State :=
  { s with
    busy := false, curOp := op, curArg := arg, todo := [], lcdCrit := false, out := s.out ++ es,
    doneCount := s.doneCount + 1 }

/-- The instructions of the main context: everything but the handler's end and the environment's steps (00_scope
R16). -/
def mainContext : Instr → Bool
  | .irqAck => false
  | .irqBody => false
  | .tick => false
  | .edge => false
  | .reset => false
  | _ => true

/-- The rows of the display unit that a request or a micro-sequence selects, the reserved codes among them. -/
def displayRow : Instr → Bool
  | .tachInit _ => false
  | .tachGetInterval _ => false
  | .irqAck => false
  | .irqBody => false
  | .tick => false
  | .edge => false
  | .reset => false
  | .accept _ => false
  | .seq => false
  | _ => true

end Sys2Proof.Claims

open Sys2Proof Sys2Proof.Machine Sys2Proof.Claims

/-! ## Encoding -/

/-- A few words written out from 30_encoding R80 to R89 and 95_test_vectors, in each format. Two of the names are the
model's choice among two rows that match: 0x200000002 is `LCD_HOME` and not `LCD_COMMAND 0x02` (log 8), and a frame with
bits 3 and 2 zero, such as 0x43, is named by its specific row and not `FRAME_GENERAL` (log 7). -/
def Obligations.SampleWordsDecode : Prop :=
  decode (.request 0x000000000) = .ok (.lcdInit 0) ∧
  decode (.request 0x1FFFFFFFF) = .ok (.lcdClear 0xFFFFFFFF) ∧
  decode (.request 0x2DEADBE28) = .ok (.lcdCommand 0xDEADBE 0x28) ∧
  decode (.request 0x200000002) = .ok (.lcdHome 0) ∧
  decode (.request 0x300000041) = .ok (.lcdData 0 0x41) ∧
  decode (.request 0x400001000) = .ok (.lcdOutString 0x1000) ∧
  decode (.request 0x50000007B) = .ok (.lcdOutUDec 123) ∧
  decode (.request 0x60000BEEF) = .ok (.lcdOutUHex 0xBEEF) ∧
  decode (.request 0x70000270F) = .ok (.lcdOutUFix 9999) ∧
  decode (.request 0x800000000) = .ok (.tachInit 0) ∧
  decode (.request 0x900000000) = .ok (.tachGetInterval 0) ∧
  decode (.request 0xF12345678) = .ok (.reservedF 0x12345678) ∧
  decode (.frame 0x43) = .ok (.frameStrobeData 4) ∧
  decode (.frame 0xAD) = .ok (.frameGeneral 0xA true true false true) ∧
  decode (.code 0x28) = .ok .cmdFunctionSet

/-- Every well-formed instruction that has a word is read back from it, every operand at every value (30_encoding R80 to
R89, R94; the split of LCD_HOME and FRAME_GENERAL is the model's choice, log 7, 8). -/
def Obligations.EncodedInstructionsDecodeBack : Prop :=
  ∀ (i : Instr) (w : TableWord), i.wellFormed = true → encode i = some w → decode w = .ok i

/-- Every word that decodes is the word of the instruction it decodes to, and that instruction is well-formed: no bit of
a word is dropped (30_encoding R80 to R89). -/
def Obligations.DecodedWordsEncodeBack : Prop :=
  ∀ (w : TableWord) (i : Instr), decode w = .ok i → i.wellFormed = true ∧ encode i = some w

/-! ## Stepping -/

/-- A step in which the host moves, with a request on its port: accepted, the request leaves the port and the
instruction it decodes to runs; not accepted, it stays (00_scope R9, 10_state R22; the agenda is the model's, log 1,
3). -/
def Obligations.StepRunsTheRequestOnThePort : Prop :=
  ∀ (s : State) (w : ReqWord) (rest : List Choice),
    s.probe = [] → s.agenda = .accept :: rest → s.req = some w →
    (s.busy = false → s.inHandler = false →
      step s = exec (decodeRequest w) { s with agenda := rest, req := none }) ∧
    (s.busy = true ∨ s.inHandler = true → step s = .next { s with agenda := rest })

/-- A step in which another agent moves runs that agent's instruction; a request the host presents waits on the port, and
one that finds the port occupied is not taken (00_scope R9, R16; the agenda and the port are the model's, log 1, 3). -/
def Obligations.StepRunsTheChosenAgent : Prop :=
  ∀ (s : State) (c : Choice) (rest : List Choice), s.probe = [] → s.agenda = c :: rest →
    (c = .seq → step s = exec .seq { s with agenda := rest }) ∧
    (c = .irqAck → step s = exec .irqAck { s with agenda := rest }) ∧
    (c = .irqBody → step s = exec .irqBody { s with agenda := rest }) ∧
    (c = .tick → step s = exec .tick { s with agenda := rest }) ∧
    (c = .edge → step s = exec .edge { s with agenda := rest }) ∧
    (c = .reset → step s = exec .reset { s with agenda := rest }) ∧
    (c = .accept → s.req = none → step s = .next { s with agenda := rest }) ∧
    (∀ w, c = .present w → s.req = none → step s = .next { s with agenda := rest, req := some w }) ∧
    (∀ w q, c = .present w → s.req = some q → step s = .next { s with agenda := rest })

/-- Where no move is listed the next one is a free draw: any step may be the next (60_exceptions R201; log 1). -/
def Obligations.StepDrawsAnyMove : Prop :=
  ∀ s : State, s.probe = [] → s.agenda = [] →
    step s = step { s with agenda := [Config.freeChoice s.draws], draws := s.draws + 1 }

/-- A table word placed from outside is the next instruction to run (log 6, the model's choice): an 8-bit word in place,
a request word through the port. -/
def Obligations.PlacedWordRunsNext : Prop :=
  ∀ (s : State) (nbits w : Nat) (i : Instr), decodeTableWord nbits w = some i →
    (byteCount nbits = 1 → step (s.withFetchWord nbits w) = exec i { s with probe := [] }) ∧
    (byteCount nbits = 5 → w < 2 ^ 36 → s.busy = false → s.inHandler = false →
      step (s.withFetchWord nbits w) = exec i { s with probe := [], req := none })

/-- No step of an agent stops the block, whatever its state and whichever agent moves (60_exceptions R190; that nothing
faults is deduced, log 24, that a move that is not enabled answers a next state is the model's choice, log 2, and the
premise that no word waits to be run from outside is log 6). -/
def Obligations.EveryStepHasANextState : Prop :=
  ∀ s : State, s.probe = [] → ∃ t, step s = .next t

/-! ## Frames, codes and micro-operations -/

/-- A frame row transmits its byte and changes nothing else (30_encoding R85, R87; run in place, the model's choice,
log 9). -/
def Obligations.FrameRowsTransmitTheirByte : Prop :=
  ∀ (d : Nibble) (k3 k2 en rs : Bool) (s : State), s.inHandler = false →
    exec (.frameIdleCmd d) s = .next { s with out := s.out ++ [.tx (d ++ 0x0#4)] } ∧
    exec (.frameStrobeCmd d) s = .next { s with out := s.out ++ [.tx (d ++ 0x2#4)] } ∧
    exec (.frameIdleData d) s = .next { s with out := s.out ++ [.tx (d ++ 0x1#4)] } ∧
    exec (.frameStrobeData d) s = .next { s with out := s.out ++ [.tx (d ++ 0x3#4)] } ∧
    exec (.frameGeneral d k3 k2 en rs) s = .next { s with
      out := s.out ++ [.tx (BitVec.ofNat 8
        (16 * d.toNat + 8 * k3.toNat + 4 * k2.toNat + 2 * en.toNat + rs.toNat))] }

/-- `NIBBLE_WRITE` emits exactly three transmissions, the second with the enable bit set, the others with it clear,
whatever the input's enable bit and low nibble are (41_lcd R120, R121; run in place, the model's choice, log 9). -/
def Obligations.NibbleWriteEmitsThreeFrames : Prop :=
  ∀ (v : Byte) (c : Nibble) (s : State), s.inHandler = false →
    exec (.nibbleWrite v c) s = .next { s with
      out := s.out ++ [.tx (v &&& 0xF0 ||| (c &&& 0xD).setWidth 8), .tx (v &&& 0xF0 ||| (c &&& 0xD).setWidth 8 ||| 0x02),
        .tx (v &&& 0xF0 ||| (c &&& 0xD).setWidth 8)] }

/-- `BYTE_XFER` emits the two nibble transfers, the upper first, inside one critical section, and leaves the section
(41_lcd R123, R126; run in place, the model's choice, log 9). -/
def Obligations.ByteXferEmitsTheFramedTransfer : Prop :=
  ∀ (b : Byte) (c : Nibble) (s : State), s.inHandler = false →
    exec (.byteXfer b c) s = .next { s with
      lcdCrit := false
      out := s.out ++ [.critEnter,
        .tx (b &&& 0xF0 ||| (c &&& 0xD).setWidth 8), .tx (b &&& 0xF0 ||| (c &&& 0xD).setWidth 8 ||| 0x02),
        .tx (b &&& 0xF0 ||| (c &&& 0xD).setWidth 8),
        .tx (b <<< 4 ||| (c &&& 0xD).setWidth 8), .tx (b <<< 4 ||| (c &&& 0xD).setWidth 8 ||| 0x02),
        .tx (b <<< 4 ||| (c &&& 0xD).setWidth 8), .critExit] }

/-- A display code is sent as `LCD_COMMAND` sends it, a reset-sequence value by one nibble transfer (30_encoding R88,
R89; run in place, the model's choice, log 9; all codes but 0x01 and 0x02 are presumed, log 16). -/
def Obligations.DisplayCodesAreSent : Prop :=
  ∀ s : State, s.inHandler = false →
    exec .cmdClear s = .next { s with lcdCrit := false, out := s.out ++ commandNine 0x01 } ∧
    exec .cmdHome s = .next { s with lcdCrit := false, out := s.out ++ commandNine 0x02 } ∧
    exec .cmdEntryMode s = .next { s with lcdCrit := false, out := s.out ++ commandNine 0x06 } ∧
    exec .cmdDisplayOn s = .next { s with lcdCrit := false, out := s.out ++ commandNine 0x0F } ∧
    exec .cmdFunctionSet s = .next { s with lcdCrit := false, out := s.out ++ commandNine 0x28 } ∧
    exec .nibReset8 s = .next { s with out := s.out ++ [.tx 0x30, .tx 0x32, .tx 0x30] } ∧
    exec .nibSet4 s = .next { s with out := s.out ++ [.tx 0x20, .tx 0x22, .tx 0x20] }

/-! ## The sequencer -/

/-- `Seq` case (a): the head event leaves `todo`, has its side effect and joins the trace; nothing else changes (10_state
R22, R28). Not enabled, with no operation running or inside the handler, `Seq` changes nothing (log 2). -/
def Obligations.SeqEmitsTheHeadEvent : Prop :=
  ∀ s : State,
    (Working s → ∀ rest : List Event,
      (s.todo = .csInit :: rest →
        exec .seq s = .next { s with todo := rest, csConfigured := true, out := s.out ++ [.csInit] }) ∧
      (∀ b, s.todo = .tx b :: rest → exec .seq s = .next { s with todo := rest, out := s.out ++ [.tx b] }) ∧
      (∀ n, s.todo = .delay n :: rest → exec .seq s = .next { s with todo := rest, out := s.out ++ [.delay n] }) ∧
      (s.todo = .critEnter :: rest →
        exec .seq s = .next { s with todo := rest, lcdCrit := true, out := s.out ++ [.critEnter] }) ∧
      (s.todo = .critExit :: rest →
        exec .seq s = .next { s with todo := rest, lcdCrit := false, out := s.out ++ [.critExit] })) ∧
    (s.busy = false ∨ s.inHandler = true → exec .seq s = .next s)

/-- With only the sequencer moving, exactly the loaded events are emitted, in order, and nothing but `todo`, the trace,
`lcd_crit` and `cs_configured` changes; a list that leaves its critical sections leaves `lcd_crit` as it says (10_state
R22, R28). -/
def Obligations.SequencerEmitsTheLoadedEvents : Prop :=
  ∀ s : State, Working s → ∃ (crit cfg : Bool),
    seqSteps s.todo.length s =
      { s with todo := [], out := s.out ++ s.todo, lcdCrit := crit, csConfigured := cfg } ∧
    (∀ c, critLevel s.lcdCrit s.todo = some c → crit = c) ∧
    (cfg = true ↔ s.csConfigured = true ∨ Event.csInit ∈ s.todo)

/-- `Accept` of any word: `busy`, `cur_op` and `cur_arg` are latched from it, no event is emitted and no tachometer
state, response or string byte changes (10_state R22; that a reserved code and the null string latch `cur_op` and
`cur_arg` too is deduced, log 11); not enabled, nothing changes (log 2). -/
def Obligations.AcceptLatchesTheRequest : Prop :=
  ∀ (w : ReqWord) (s : State),
    (s.busy = false → s.inHandler = false → ∃ t, exec (.accept w) s = .next t ∧
      t.busy = true ∧ t.curOp = w.extractLsb' 32 4 ∧ t.curArg = w.extractLsb' 0 32 ∧ t.out = s.out ∧
      t.lcdCrit = s.lcdCrit ∧ t.csConfigured = s.csConfigured ∧ t.lcdMode = s.lcdMode ∧ t.strmem = s.strmem ∧
      t.resp = s.resp ∧ t.doneCount = s.doneCount ∧ t.req = s.req ∧ tachView t = tachView s) ∧
    (s.busy = true ∨ s.inHandler = true → exec (.accept w) s = .next s)

/-- `Accept` of a word is the step of the instruction the word decodes to (10_state R22, 30_encoding R81). -/
def Obligations.AcceptRunsTheDecodedRequest : Prop :=
  ∀ (w : ReqWord) (s : State), exec (.accept w) s = exec (decodeRequest w) s

/-- `LCD_HOME` is `LCD_COMMAND 0x02` (30_encoding R94). -/
def Obligations.HomeIsCommandTwo : Prop :=
  ∀ (hi : BitVec 24) (s : State), exec (.lcdHome hi) s = exec (.lcdCommand hi 0x02) s

/-- A request is not accepted while an operation runs: it changes nothing (00_scope R9, 10_state R22; a step that is not
enabled changes nothing, log 2). -/
def Obligations.BusyHoldsEveryRequest : Prop :=
  ∀ (i : Instr) (w : ReqWord) (s : State), encode i = some (.request w) → s.busy = true → exec i s = .next s

/-- The bits of `arg` an operation ignores change nothing but the latch `cur_arg` (30_encoding R82). -/
def Obligations.IgnoredArgumentBitsOnlyLatch : Prop :=
  ∀ (arg arg' : Word) (hi hi' : BitVec 24) (b : Byte) (s : State), s.busy = false → s.inHandler = false →
    (∃ t, exec (.lcdInit arg) s = .next t ∧ exec (.lcdInit arg') s = .next { t with curArg := arg' }) ∧
    (∃ t, exec (.lcdClear arg) s = .next t ∧ exec (.lcdClear arg') s = .next { t with curArg := arg' }) ∧
    (∃ t, exec (.tachInit arg) s = .next t ∧ exec (.tachInit arg') s = .next { t with curArg := arg' }) ∧
    (∃ t, exec (.tachGetInterval arg) s = .next t ∧
      exec (.tachGetInterval arg') s = .next { t with curArg := arg' }) ∧
    (∃ t, exec (.lcdCommand hi b) s = .next t ∧ exec (.lcdCommand hi' b) s = .next { t with curArg := hi' ++ b }) ∧
    (∃ t, exec (.lcdData hi b) s = .next t ∧ exec (.lcdData hi' b) s = .next { t with curArg := hi' ++ b })

/-! ## Display operations -/

/-- `LCD_INIT` loads its sequence; the sequencer alone then emits exactly the trace of R112 and completes with the chip
select configured and the mode `Ready`, for every value of the open wait (40_lcd_init R110 to R112; the codes are
presumed, log 16). -/
def Obligations.LcdInitRunsToReady : Prop :=
  ∀ (arg : Word) (s : State), Idle s →
    exec (.lcdInit arg) s = .next { s with
      busy := true, curOp := 0x0, curArg := arg, todo := initTrace s.initPostSwitchDelayMs } ∧
    ∃ t, exec (.lcdInit arg) s = .next t ∧
      seqSteps ((initTrace s.initPostSwitchDelayMs).length + 1) t =
        { afterOperation 0x0 arg (initTrace s.initPostSwitchDelayMs) s with csConfigured := true, lcdMode := .ready }

/-- The receiver view of `LCD_INIT` is the twelve nibbles 3 3 3 2 2 8 0 6 0 1 0 F, all as instructions, the display
latches them where the pulse width requirement is met (the premise 70_reset R225 asks for, log 26), and the waits sum to
32 ms and the open wait (40_lcd_init R112; the codes are presumed, log 16). -/
def Obligations.InitDeliversTwelveNibbles : Prop :=
  ∀ (arg : Word) (s : State), Idle s → ∃ t, exec (.lcdInit arg) s = .next t ∧
    receiverView t.todo = [3, 3, 3, 2, 2, 8, 0, 6, 0, 1, 0, 0xF].map (fun d => (false, d)) ∧
    (∀ b : BusTiming, b.pulseWidthMet = true →
      displayLatches b t.todo = some ([3, 3, 3, 2, 2, 8, 0, 6, 0, 1, 0, 0xF].map (fun d => (false, d)))) ∧
    minDelayMs t.todo = 32 + s.initPostSwitchDelayMs

/-- `LCD_COMMAND b`: operation code 2, the byte transfer with register-select 0, then 2 ms below code 4 and 1 ms else
(41_lcd R127). -/
def Obligations.CommandRunsToDone : Prop :=
  ∀ (hi : BitVec 24) (b : Byte) (s : State), Idle s →
    encode (.lcdCommand hi b) = some (.request (0x2#4 ++ (hi ++ b))) ∧
    exec (.lcdCommand hi b) s = .next { s with
      busy := true, curOp := 0x2, curArg := hi ++ b, todo := commandNine b } ∧
    ∃ t, exec (.lcdCommand hi b) s = .next t ∧ seqSteps 10 t = afterOperation 0x2 (hi ++ b) (commandNine b) s

/-- `LCD_DATA b`: operation code 3, the byte transfer with register-select 1, then 1 ms always (41_lcd R128). -/
def Obligations.DataRunsToDone : Prop :=
  ∀ (hi : BitVec 24) (b : Byte) (s : State), Idle s →
    encode (.lcdData hi b) = some (.request (0x3#4 ++ (hi ++ b))) ∧
    exec (.lcdData hi b) s = .next { s with
      busy := true, curOp := 0x3, curArg := hi ++ b, todo := dataNine b } ∧
    ∃ t, exec (.lcdData hi b) s = .next t ∧ seqSteps 10 t = afterOperation 0x3 (hi ++ b) (dataNine b) s

/-- `LCD_CLEAR` sends command 0x01 and nothing else, and `LCD_HOME` command 0x02 (41_lcd R129, 30_encoding R94; that the
word of `LCD_COMMAND 0x02` is named `LCD_HOME` is the model's choice, log 8). -/
def Obligations.ClearAndHomeRunToDone : Prop :=
  ∀ (arg : Word) (hi : BitVec 24) (s : State), Idle s →
    encode (.lcdClear arg) = some (.request (0x1#4 ++ arg)) ∧
    encode (.lcdHome hi) = some (.request (0x2#4 ++ (hi ++ 0x02#8))) ∧
    exec (.lcdClear arg) s = .next { s with
      busy := true, curOp := 0x1, curArg := arg, todo := commandNine 0x01 } ∧
    exec (.lcdHome hi) s = .next { s with
      busy := true, curOp := 0x2, curArg := hi ++ 0x02#8, todo := commandNine 0x02 } ∧
    (∃ t, exec (.lcdClear arg) s = .next t ∧ seqSteps 10 t = afterOperation 0x1 arg (commandNine 0x01) s) ∧
    ∃ t, exec (.lcdHome hi) s = .next t ∧ seqSteps 10 t = afterOperation 0x2 (hi ++ 0x02#8) (commandNine 0x02) s

/-- `LCD_OUTUDEC n` sends exactly the decimal digits of `n`, no leading zero, one to ten of them (42_lcd
R146; the ASCII codes are the spec's from general knowledge, log 16). -/
def Obligations.DecimalOutputRunsToDone : Prop :=
  ∀ (n : Word) (s : State), Idle s → encode (.lcdOutUDec n) = some (.request (0x5#4 ++ n)) ∧
    ∃ t, exec (.lcdOutUDec n) s = .next t ∧
    t = { s with busy := true, curOp := 0x5, curArg := n, todo := (decimalAscii n.toNat).flatMap dataNine } ∧
    1 ≤ (decimalAscii n.toNat).length ∧ (decimalAscii n.toNat).length ≤ 10 ∧
    seqSteps (9 * (decimalAscii n.toNat).length + 1) t =
      afterOperation 0x5 n ((decimalAscii n.toNat).flatMap dataNine) s

/-- `LCD_OUTUHEX n` sends exactly the upper-case hexadecimal digits of `n`, no leading zero, one to eight of them
(42_lcd R148; the ASCII codes are the spec's from general knowledge, log 16). -/
def Obligations.HexOutputRunsToDone : Prop :=
  ∀ (n : Word) (s : State), Idle s → encode (.lcdOutUHex n) = some (.request (0x6#4 ++ n)) ∧
    ∃ t, exec (.lcdOutUHex n) s = .next t ∧
    t = { s with busy := true, curOp := 0x6, curArg := n, todo := (hexAscii n.toNat).flatMap dataNine } ∧
    1 ≤ (hexAscii n.toNat).length ∧ (hexAscii n.toNat).length ≤ 8 ∧
    seqSteps (9 * (hexAscii n.toNat).length + 1) t =
      afterOperation 0x6 n ((hexAscii n.toNat).flatMap dataNine) s

/-- `LCD_OUTUFIX n` sends the integer part, a point and one digit for `n ≤ 9999` and `*.***` above, three to five
characters, and raises nothing (42_lcd R150, 60_exceptions R191; the ASCII codes are the spec's from general knowledge,
log 16). -/
def Obligations.FixedOutputRunsToDone : Prop :=
  ∀ (n : Word) (s : State), Idle s → encode (.lcdOutUFix n) = some (.request (0x7#4 ++ n)) ∧
    ∃ t, exec (.lcdOutUFix n) s = .next t ∧
    t = { s with busy := true, curOp := 0x7, curArg := n, todo := (fixedAscii n.toNat).flatMap dataNine } ∧
    3 ≤ (fixedAscii n.toNat).length ∧ (fixedAscii n.toNat).length ≤ 5 ∧
    seqSteps (9 * (fixedAscii n.toNat).length + 1) t =
      afterOperation 0x7 n ((fixedAscii n.toNat).flatMap dataNine) s

/-- Every text operation reaches the receiver as its text: joined two by two, the latched nibbles of what a number
operation loads, and of what a string operation sends, are the characters, all with register-select 1, and a display in
4-bit mode reads them where the pulse width requirement is met (the premise 70_reset R225 asks for, log 26; 30_encoding
R91, 42_lcd R140; the ASCII codes of a number are the spec's from general knowledge, log 16). -/
def Obligations.ReceiverReadsTheText : Prop :=
  (∀ (n : Word) (s : State), Idle s → ∃ t u v,
    exec (.lcdOutUDec n) s = .next t ∧ exec (.lcdOutUHex n) s = .next u ∧ exec (.lcdOutUFix n) s = .next v ∧
    joinNibbles (receiverView t.todo) = (decimalAscii n.toNat).map (fun c => (true, c)) ∧
    joinNibbles (receiverView u.todo) = (hexAscii n.toNat).map (fun c => (true, c)) ∧
    joinNibbles (receiverView v.todo) = (fixedAscii n.toNat).map (fun c => (true, c)) ∧
    (∀ b : BusTiming, b.pulseWidthMet = true →
      displayReads b t.todo = some ((decimalAscii n.toNat).map (fun c => (true, c))) ∧
      displayReads b u.todo = some ((hexAscii n.toNat).map (fun c => (true, c))) ∧
      displayReads b v.todo = some ((fixedAscii n.toNat).map (fun c => (true, c))))) ∧
  (∀ (a : Addr) (cs : List Byte) (s : State), Idle s → a ≠ 0 → StringAt s.strmem a cs →
    ∃ t es, exec (.lcdOutString a) s = .next t ∧ (seqSteps (10 * cs.length + 2) t).out = s.out ++ es ∧
      joinNibbles (receiverView es) = cs.map (fun c => (true, c)) ∧
      (∀ b : BusTiming, b.pulseWidthMet = true → displayReads b es = some (cs.map (fun c => (true, c)))))

/-- A byte transfer delivers the pair of its upper nibble, then that of its lower nibble, both with register-select
`c[0]`, which join into the byte; a single nibble transfer delivers the one pair (41_lcd R125). A display in 4-bit mode
reads the byte where the pulse width requirement is met (the premise 70_reset R225 asks for, log 26). -/
def Obligations.ReceiverSeesTheByte : Prop :=
  ∀ (b : Byte) (c : Nibble),
    receiverView (byteXferEvents b c) =
      [(c.getLsbD 0, b.extractLsb' 4 4), (c.getLsbD 0, b.extractLsb' 0 4)] ∧
    joinNibbles (receiverView (byteXferEvents b c)) = [(c.getLsbD 0, b)] ∧
    receiverView (nibbleWriteEvents b c) = [(c.getLsbD 0, b.extractLsb' 4 4)] ∧
    (∀ p : BusTiming, p.pulseWidthMet = true →
      displayReads p (byteXferEvents b c) = some [(c.getLsbD 0, b)] ∧
      displayLatches p (nibbleWriteEvents b c) = some [(c.getLsbD 0, b.extractLsb' 4 4)])

/-- `LCD_OUTSTRING a` with a terminated string at `a` reads its bytes and the terminator in address order, sends the
bytes, nine events each and none for the empty string, and completes; the pointer wraps modulo 2^32 (42_lcd R142). -/
def Obligations.StringOutputRunsToDone : Prop :=
  ∀ (a : Addr) (cs : List Byte) (s : State), Idle s → a ≠ 0 → s.lcdCrit = false → StringAt s.strmem a cs →
    encode (.lcdOutString a) = some (.request (0x4#4 ++ a)) ∧
    exec (.lcdOutString a) s = .next { s with
      busy := true, curOp := 0x4, curArg := a, todo := [], strActive := true, strPtr := a } ∧
    (cs.flatMap dataNine).length = 9 * cs.length ∧
    ∃ t, exec (.lcdOutString a) s = .next t ∧
      seqSteps (10 * cs.length + 2) t =
        { afterOperation 0x4 a (cs.flatMap dataNine) s with strPtr := a + BitVec.ofNat 32 (cs.length + 1) }

/-- `LCD_OUTSTRING` of the null address raises `IllegalOp`, reads nothing, sends nothing, and the next `Seq` completes it
(42_lcd R143; that it is modelled and not refused is a choice, log 10, that it latches `cur_op` and `cur_arg` is deduced,
log 11, and that 0 is the null address is presumed, log 20). -/
def Obligations.NullStringRaisesIllegalOp : Prop :=
  ∀ s : State, Idle s → ∃ t, exec (.lcdOutString 0) s = .next t ∧
    t = { s with busy := true, curOp := 0x4, curArg := 0, todo := [], status := s.status ||| 0b10 } ∧
    exec .seq t = .next { t with busy := false, doneCount := s.doneCount + 1 }

/-- One iteration of the string loop: one byte read, the pointer advanced, then the nine events of the byte or the end
(42_lcd R141). -/
def Obligations.StringLoopReadsOneByte : Prop :=
  ∀ s : State, Working s → s.todo = [] → s.strActive = true →
    (memRead s.strmem s.strPtr ≠ 0 → exec .seq s = .next { s with
      strPtr := s.strPtr + 1, todo := dataNine (memRead s.strmem s.strPtr) }) ∧
    (memRead s.strmem s.strPtr = 0 → exec .seq s = .next { s with strPtr := s.strPtr + 1, strActive := false })

/-- A string with no terminator hangs the block (42_lcd R144). Whichever agent moves, every step but `RESET` and a platform
write of a zero keeps the operation running: it does not complete, raises no `IllegalOp`, and a request on the port stays
there, as does one offered to `Accept`. With only the sequencer moving no status bit is set, and the bytes are sent one
after the other, for ever, going round through the last address. (The moves, the port and that a step that is not enabled
changes nothing are the model's, log 1, 2, 3; the platform's write is log 5.) -/
def Obligations.NonterminatedStringNeverCompletes : Prop :=
  (∀ s t : State, HungOnString s → (nextChoice s).1 ≠ .reset → (∀ a, (nextChoice s).1 ≠ .strWrite a 0) →
    step s = .next t →
    HungOnString t ∧ t.doneCount = s.doneCount ∧ statusIllegalOp t = statusIllegalOp s ∧
    ∀ w, s.req = some w → t.req = some w) ∧
  (∀ (s : State) (w : ReqWord), HungOnString s →
    exec (.accept w) s = .next s ∧ exec (decodeRequest w) s = .next s) ∧
  (∀ (s : State) (k : Nat), HungOnString s → s.inHandler = false →
    HungOnString (seqSteps k s) ∧ (seqSteps k s).doneCount = s.doneCount ∧ (seqSteps k s).status = s.status ∧
    (s.todo = [] → s.lcdCrit = false → seqSteps (10 * k) s = { s with
      strPtr := s.strPtr + BitVec.ofNat 32 k
      out := s.out ++ (List.range k).flatMap fun j => dataNine (memRead s.strmem (s.strPtr + BitVec.ofNat 32 j)) }))

/-- A reserved operation code raises `IllegalOp`, loads nothing, and the next `Seq` completes it with no event and the
response unchanged (30_encoding R83; `cur_op` and `cur_arg` are latched by R22's rule for every request, log 11). -/
def Obligations.ReservedCodesRaiseIllegalOp : Prop :=
  ∀ (arg : Word) (s : State), Idle s →
    ∀ p ∈ [(Instr.reservedA arg, 0xA#4), (.reservedB arg, 0xB#4), (.reservedC arg, 0xC#4), (.reservedD arg, 0xD#4),
        (.reservedE arg, 0xE#4), (.reservedF arg, 0xF#4)],
      ∃ t, exec p.1 s = .next t ∧
        t = { s with busy := true, curOp := p.2, curArg := arg, todo := [], status := s.status ||| 0b10 } ∧
        exec .seq t = .next { t with busy := false, doneCount := s.doneCount + 1 }

/-! ## Tachometer -/

/-- `TACH_INIT`: the completing step configures the timer and the interrupt in one action, from `Uninitialized` to
`Configured`, and leaves the capture record alone (43_tachometer R161). -/
def Obligations.TachInitConfigures : Prop :=
  ∀ (arg : Word) (s : State), Idle s → encode (.tachInit arg) = some (.request (0x8#4 ++ arg)) ∧
    ∃ t, exec (.tachInit arg) s = .next t ∧
    t = { s with busy := true, curOp := 0x8, curArg := arg, todo := [] } ∧
    exec .seq t = .next { t with
      busy := false, capCfg := true, counter := 0xFFFF, capIe := true, pending := false, timerRun := true,
      vecEn := true, gie := true, tstate := if s.tstate = .uninitialized then .configured else s.tstate,
      doneCount := s.doneCount + 1 }

/-- `TACH_GETINTERVAL` with `SPEED_READ_TEARING = false` returns `speed` in one read (43_tachometer R175). -/
def Obligations.GetIntervalReturnsTheSpeed : Prop :=
  ∀ (arg : Word) (s : State), Idle s → s.speedReadTearing = false →
    encode (.tachGetInterval arg) = some (.request (0x9#4 ++ arg)) ∧ ∃ t, exec (.tachGetInterval arg) s = .next t ∧
    t = { s with busy := true, curOp := 0x9, curArg := arg, todo := [], readPos := 0 } ∧
    exec .seq t = .next { t with busy := false, resp := s.speed, doneCount := s.doneCount + 1 }

/-- With `SPEED_READ_TEARING = true` a step reads one byte of the speed of that moment, bytes 0 to 3, and then the
operation completes with the response as read (43_tachometer R176). -/
def Obligations.TornReadTakesOneByteAStep : Prop :=
  ∀ s : State, Working s → s.todo = [] → s.strActive = false → s.curOp = 0x9 → s.speedReadTearing = true →
    (s.readPos < 4 → ∃ r, exec .seq s = .next { s with resp := r, readPos := s.readPos + 1 } ∧
      ∀ j < 4, r.extractLsb' (8 * j) 8 =
        if j = s.readPos then s.speed.extractLsb' (8 * j) 8 else s.resp.extractLsb' (8 * j) 8) ∧
    (4 ≤ s.readPos → exec .seq s = .next { s with busy := false, doneCount := s.doneCount + 1 })

/-- A torn read that no handler run interrupts returns the speed whole (43_tachometer R176). -/
def Obligations.UninterruptedTornReadIsWhole : Prop :=
  ∀ (arg : Word) (s : State), Idle s → s.speedReadTearing = true → ∃ t, exec (.tachGetInterval arg) s = .next t ∧
    seqSteps 5 t = { s with
      busy := false, curOp := 0x9, curArg := arg, todo := [], readPos := 4, resp := s.speed,
      doneCount := s.doneCount + 1 }

/-- `TICK` moves the counter down by one, from 0 to 0xFFFF, while the timer runs, and nothing else ever (43_tachometer
R163; the value after 0 is presumed, log 17). -/
def Obligations.TickCountsDown : Prop :=
  ∀ s : State, ∃ t, exec .tick s = .next t ∧ t = { s with counter := t.counter } ∧
    (s.timerRun = false → t.counter = s.counter) ∧
    (s.timerRun = true → t.counter.toNat = (s.counter.toNat + 65535) % 65536)

/-- `EDGE` captures the counter, sets the flag and starts `Running`, whatever the handler and the critical section do,
and whether or not a capture is pending; before `TACH_INIT` it does nothing (43_tachometer R164; that a second edge
overwrites the capture is presumed, log 19). -/
def Obligations.EdgeCaptures : Prop :=
  ∀ s : State,
    (s.timerRun = true → s.capCfg = true → exec .edge s = .next { s with
      cap := s.counter, pending := true, tstate := if s.tstate = .configured then .running else s.tstate }) ∧
    (s.timerRun = false ∨ s.capCfg = false → exec .edge s = .next s)

/-- `IRQ_ACK` enters the handler exactly where the six terms of the take condition hold; it clears the flag, sets
`in_handler` and changes nothing else (43_tachometer R166, 60_exceptions R196, R199; not enabled, nothing changes,
log 2). -/
def Obligations.IrqAckEntersTheHandler : Prop :=
  ∀ s : State,
    (s.pending = true ∧ s.capIe = true ∧ s.vecEn = true ∧ s.gie = true ∧ s.lcdCrit = false ∧ s.inHandler = false →
      exec .irqAck s = .next { s with pending := false, inHandler := true }) ∧
    (¬(s.pending = true ∧ s.capIe = true ∧ s.vecEn = true ∧ s.gie = true ∧ s.lcdCrit = false ∧ s.inHandler = false) →
      exec .irqAck s = .next s)

/-- `IRQ_BODY` is one action: the shift, the interval, the guarded speed, the degenerate flag, the count, and the end of
the handler (43_tachometer R167). Not enabled, outside the handler, it changes nothing (log 2). -/
def Obligations.IrqBodyUpdatesTheRecord : Prop :=
  ∀ s : State,
    (s.inHandler = true → ∃ (ivl : Word), ivl = s.currentVal.setWidth 32 - s.cap.setWidth 32 ∧
      exec .irqBody s = .next { s with
        previousVal := s.currentVal, currentVal := s.cap, interval := ivl,
        speed := if ivl = 0 then 0 else 8000000 / ivl * 60 / 120,
        status := if s.ncap ≠ 0 ∧ (ivl = 0 ∨ s.currentVal < s.cap) then s.status ||| 0b01 else s.status,
        ncap := if s.ncap = 0 then 1 else 2, inHandler := false }) ∧
    (s.inHandler = false → exec .irqBody s = .next s)

/-- After a handler run the speed is `4000000 / interval` truncated, 61 to 4000000, where the counter went down between
the captures, and 0 where it did not; the interval is the difference modulo 2^32 (43_tachometer R169, R178). -/
def Obligations.SpeedIsFourMillionOverInterval : Prop :=
  ∀ s : State, s.inHandler = true → ∃ t, exec .irqBody s = .next t ∧
    t.interval.toNat = (2 ^ 32 + s.currentVal.toNat - s.cap.toNat) % 2 ^ 32 ∧
    (s.cap < s.currentVal →
      t.speed.toNat = 4000000 / (s.currentVal.toNat - s.cap.toNat) ∧ 61 ≤ t.speed.toNat ∧ t.speed.toNat ≤ 4000000) ∧
    (s.currentVal ≤ s.cap → t.speed = 0)

/-- The first handler run after reset leaves the speed 0, flags nothing and counts one run, whatever was captured, and
its results are not valid; from the second run on they are (43_tachometer R173). -/
def Obligations.FirstRunLeavesSpeedZero : Prop :=
  ∀ s : State, s.inHandler = true → ∃ t, exec .irqBody s = .next t ∧
    (s.ncap = 0 → s.currentVal = 0 →
      t.speed = 0 ∧ t.interval.toNat = (2 ^ 32 - s.cap.toNat) % 2 ^ 32 ∧ t.ncap = 1 ∧ t.status = s.status ∧
      intervalValid t = false ∧ speedValid t = false) ∧
    (s.ncap ≠ 0 → t.ncap = 2 ∧ intervalValid t = true ∧ speedValid t = true)

/-- The acknowledge-then-read race: an edge between the handler's two steps is read at once and then handled again, the
second run finds a zero interval, the speed becomes 0 and the degenerate bit is set (43_tachometer R179). -/
def Obligations.EdgeInsideTheHandlerIsReadTwice : Prop :=
  ∀ s : State, s.inHandler = true → s.pending = false → s.lcdCrit = false → s.timerRun = true → s.capCfg = true →
    s.capIe = true → s.vecEn = true → s.gie = true → ∃ t u v w,
      exec .edge s = .next t ∧ exec .irqBody t = .next u ∧ u.currentVal = s.counter ∧
      exec .irqAck u = .next v ∧ v.inHandler = true ∧ exec .irqBody v = .next w ∧
      w.interval = 0 ∧ w.speed = 0 ∧ statusDegenerate w = true ∧ w.pending = false

/-- Two edges, one `TICK` apart, that both come before the handler runs coalesce: one run sees the later capture, and no
second run follows (60_exceptions R197; that the later capture overwrites is presumed, log 19; that the `IRQ_ACK` offered
after the run, not enabled, changes nothing is the model's choice, log 2). -/
def Obligations.EarlyEdgesCoalesce : Prop :=
  ∀ s : State, s.inHandler = false → s.lcdCrit = false → s.timerRun = true → s.capCfg = true → s.capIe = true →
    s.vecEn = true → s.gie = true → ∃ t u v w x,
      exec .edge s = .next t ∧ exec .tick t = .next u ∧ exec .edge u = .next v ∧ v.cap = u.counter ∧
      v.status = s.status ∧ exec .irqAck v = .next w ∧ exec .irqBody w = .next x ∧ x.currentVal = u.counter ∧
      x.previousVal = s.currentVal ∧ exec .irqAck x = .next x

/-! ## Contexts, frames and invariants -/

/-- Inside a critical section the handler does not start, whichever agent moves (41_lcd R126, 20_memory R70). -/
def Obligations.CriticalSectionHoldsTheHandler : Prop :=
  ∀ s t : State, s.probe = [] → s.lcdCrit = true → s.inHandler = false → step s = .next t → t.inHandler = false

/-- While the handler runs the main context stands still: every request, `Seq` and every micro-sequence changes nothing,
and so does a second `IRQ_ACK` (10_state R41, 60_exceptions R200; a step that is not enabled changes nothing,
log 2). -/
def Obligations.HandlerSuspendsTheMainContext : Prop :=
  ∀ (i : Instr) (s : State), mainContext i = true ∨ i = .irqAck → s.inHandler = true → exec i s = .next s

/-- The frame rule: display operations leave the tachometer and the response alone; tachometer operations and steps
leave the display alone; the handler's steps write no trace, inhibit bit, sequencer or response; `TICK` writes only
`counter`, `EDGE` only `cap`, `pending` and `tstate` (44_control R184). -/
def Obligations.UnitsLeaveEachOtherAlone : Prop :=
  (∀ (i : Instr) (s t : State), displayRow i = true → exec i s = .next t →
    tachView t = tachView s ∧ t.resp = s.resp) ∧
  (∀ s t : State, s.curOp ≠ 0x8 → s.curOp ≠ 0x9 → exec .seq s = .next t → tachView t = tachView s ∧ t.resp = s.resp) ∧
  (∀ (arg : Word) (s t : State), exec (.tachInit arg) s = .next t ∨ exec (.tachGetInterval arg) s = .next t →
    ∃ b o a es ac rp,
      t = { s with busy := b, curOp := o, curArg := a, todo := es, strActive := ac, readPos := rp }) ∧
  (∀ s t : State, s.todo = [] → s.strActive = false → s.curOp = 0x8 ∨ s.curOp = 0x9 → exec .seq s = .next t →
    displayView { t with busy := s.busy } = displayView s) ∧
  (∀ s t : State, exec .irqAck s = .next t ∨ exec .irqBody s = .next t →
    displayView t = displayView s ∧ t.resp = s.resp) ∧
  (∀ s t : State, exec .tick s = .next t → t = { s with counter := t.counter }) ∧
  (∀ s t : State, exec .edge s = .next t → t = { s with cap := t.cap, pending := t.pending, tstate := t.tstate })

/-- No data flows from the tachometer to the display: two states that agree on the display unit, the string space and
what may step give display units that agree, whatever their tachometer data are (00_scope R2). -/
def Obligations.DisplayIgnoresTachometerData : Prop :=
  ∀ (i : Instr) (s t s' t' : State), displayView s = displayView t → s.inHandler = t.inHandler →
    s.initPostSwitchDelayMs = t.initPostSwitchDelayMs → s.speedReadTearing = t.speedReadTearing →
    s.readPos = t.readPos → exec i s = .next s' → exec i t = .next t' → displayView s' = displayView t'

/-- A step leaves the trace alone, or appends the head of `todo` to it while the sequencer works, one event a step, or
empties it and keeps the events already sent (10_state R28, 70_reset R222; that a reset keeps them apart is the model's
choice, log 15). -/
def Obligations.TraceGrowsOneEventAStep : Prop :=
  ∀ s t : State, s.probe = [] → step s = .next t →
    (t.out = s.out ∧ t.sentBefore = s.sentBefore) ∨
    (∃ e, t.out = s.out ++ [e] ∧ s.todo = e :: t.todo ∧ t.sentBefore = s.sentBefore ∧ Working s) ∨
    (t.out = [] ∧ t.sentBefore = s.sentBefore ++ s.out)

/-- A status bit is 0 after reset and, once set, stays set under every instruction but `RESET`; bit 0 is set by `IRQ_BODY`
only, bit 1 by a request only (10_state R47). -/
def Obligations.StatusBitsAreSticky : Prop :=
  State.reset.status = 0 ∧ (∀ s : State, ∃ t, exec .reset s = .next t ∧ t.status = 0) ∧
  ∀ (i : Instr) (s t : State), i ≠ .reset → exec i s = .next t →
    (s.status.getLsbD 0 = true → t.status.getLsbD 0 = true) ∧
    (s.status.getLsbD 1 = true → t.status.getLsbD 1 = true) ∧
    (s.status.getLsbD 0 = false → t.status.getLsbD 0 = true → i = .irqBody) ∧
    (s.status.getLsbD 1 = false → t.status.getLsbD 1 = true →
      ∃ w, i = .accept w ∨ encode i = some (.request w))

/-- There is no shutdown path: no instruction but `RESET` clears an enable or configuration bit, the chip-select record
or the mode record, or takes the tachometer back to an earlier state (10_state R25, R26, R30 to R32). -/
def Obligations.NothingButResetShutsDown : Prop :=
  ∀ (i : Instr) (s t : State), i ≠ .reset → exec i s = .next t →
    (s.timerRun = true → t.timerRun = true) ∧ (s.capCfg = true → t.capCfg = true) ∧
    (s.capIe = true → t.capIe = true) ∧ (s.vecEn = true → t.vecEn = true) ∧ (s.gie = true → t.gie = true) ∧
    (s.csConfigured = true → t.csConfigured = true) ∧ (s.lcdMode = .ready → t.lcdMode = .ready) ∧
    (s.tstate = .running → t.tstate = .running) ∧ (s.tstate = .configured → t.tstate ≠ .uninitialized)

/-- The string space is read-only to the block (20_memory R60, R61), and a platform write changes the one byte it names
and keeps the canonical form (that the platform writes by a move of the agenda, one byte at a time, and how the bytes are
listed, are the model's choice, log 1, 5; R69 gives no rule for a racing write). -/
def Obligations.OnlyThePlatformWritesMemory : Prop :=
  (∀ (i : Instr) (s t : State), exec i s = .next t → t.strmem = s.strmem) ∧
  (∀ (s : State) (a : Addr) (b : Byte) (rest : List Choice), s.probe = [] → s.agenda = .strWrite a b :: rest →
    ∃ m, step s = .next { s with agenda := rest, strmem := m } ∧ memRead m a = b ∧
      (∀ a', a' ≠ a → memRead m a' = memRead s.strmem a') ∧ (Memory.wf s.strmem = true → Memory.wf m = true))

/-- `RESET` gives every element of the block its reset value in one action, whatever it was doing, and emits no event
(70_reset R220); what is outside the block, and the events already sent, stay (the model's choice, log 15). -/
def Obligations.ResetRestoresEveryElement : Prop :=
  ∀ s : State, exec .reset s = .next { s with
    busy := false, curOp := 0, curArg := 0, todo := [], strActive := false, strPtr := 0, resp := 0,
    lcdCrit := false, csConfigured := false, lcdMode := .unknown, out := [],
    tstate := .uninitialized, timerRun := false, capCfg := false, capIe := false, vecEn := false, gie := false,
    counter := 0, cap := 0, pending := false, currentVal := 0, previousVal := 0, interval := 0, speed := 0,
    ncap := 0, inHandler := false, status := 0, doneCount := 0, readPos := 0, sentBefore := s.sentBefore ++ s.out }

/-- After reset every element has the value the table of reset values gives (10_state R49). -/
def Obligations.ResetStateHoldsTheListedValues : Prop :=
  State.reset.busy = false ∧ State.reset.curOp = 0 ∧ State.reset.curArg = 0 ∧ State.reset.todo = [] ∧
  State.reset.strActive = false ∧ State.reset.strPtr = 0 ∧ State.reset.resp = 0 ∧ State.reset.lcdCrit = false ∧
  State.reset.csConfigured = false ∧ State.reset.lcdMode = .unknown ∧ State.reset.out = [] ∧
  State.reset.tstate = .uninitialized ∧ State.reset.timerRun = false ∧ State.reset.capCfg = false ∧
  State.reset.capIe = false ∧ State.reset.vecEn = false ∧ State.reset.gie = false ∧ State.reset.counter = 0 ∧
  State.reset.cap = 0 ∧ State.reset.pending = false ∧ State.reset.currentVal = 0 ∧ State.reset.previousVal = 0 ∧
  State.reset.interval = 0 ∧ State.reset.speed = 0 ∧ State.reset.ncap = 0 ∧ State.reset.inHandler = false ∧
  State.reset.status = 0

/-- The reset state is sound (10_state R49). -/
def Obligations.ResetIsSound : Prop := Sound State.reset

/-- Every step of every agent keeps every clause of `Sound`: the memory's form, the enables together, the critical
sections in turn and never around the handler, only legal events, the record consistent with its speed, and the rest
(the rules are named at the clauses of `Sound`). -/
def Obligations.StepKeepsSound : Prop :=
  ∀ s t : State, Sound s → step s = .next t → Sound t
end

