-- ==== Sys2Proof/Laws/Decode.lean ====
section
/-! SUPPORT. The fields of a word and the word of its fields: what the decoder reads from what the encoder writes. -/

namespace Sys2Proof

/-! The widths as numerals, for arithmetic. -/

@[simp] theorem counterBits_eq : Config.counterBits = 16 := rfl
@[simp] theorem reqBits_eq : Config.reqBits = 36 := rfl
@[simp] theorem strAddrBits_eq : Config.strAddrBits = 32 := rfl

theorem half_toNat_lt (v : Half) : v.toNat < 65536 := v.isLt
theorem reqWord_toNat_lt (w : ReqWord) : w.toNat < 68719476736 := w.isLt
theorem addr_toNat_lt (a : Addr) : a.toNat < 4294967296 := a.isLt

@[simp] theorem reqOp_requestWord (op : Nibble) (a : Word) : reqOp (requestWord op a) = op := by
  apply BitVec.eq_of_getLsbD_eq
  intro i hi
  rw [reqOp, requestWord, BitVec.getLsbD_extractLsb']
  erw [BitVec.getLsbD_append]
  simp [hi]

@[simp] theorem reqArg_requestWord (op : Nibble) (a : Word) : reqArg (requestWord op a) = a := by
  apply BitVec.eq_of_getLsbD_eq
  intro i hi
  rw [reqArg, requestWord, BitVec.getLsbD_extractLsb']
  erw [BitVec.getLsbD_append]
  simp [hi]

@[simp] theorem argHi_byteArg (h : BitVec 24) (b : Byte) : argHi (byteArg h b) = h := by
  apply BitVec.eq_of_getLsbD_eq
  intro i hi
  rw [argHi, byteArg, BitVec.getLsbD_extractLsb']
  erw [BitVec.getLsbD_append]
  simp [hi]

@[simp] theorem argByte_byteArg (h : BitVec 24) (b : Byte) : argByte (byteArg h b) = b := by
  apply BitVec.eq_of_getLsbD_eq
  intro i hi
  rw [argByte, byteArg, BitVec.getLsbD_extractLsb']
  erw [BitVec.getLsbD_append]
  simp [hi]

/-- A request word is its fields. -/
theorem requestWord_eta (w : ReqWord) : requestWord (reqOp w) (reqArg w) = w := by
  apply BitVec.eq_of_getLsbD_eq
  intro i hi
  change i < 36 at hi
  simp only [reqOp, reqArg, requestWord, BitVec.getLsbD_append, BitVec.getLsbD_extractLsb']
  split
  · rename_i h; simp [h]
  · rename_i h
    have h4 : i - 32 < 4 := by omega
    simp only [h4, decide_true, Bool.true_and]
    congr 1
    omega

/-- An argument of a byte operation is its ignored bits and its byte. -/
theorem byteArg_eta (w : Word) : byteArg (argHi w) (argByte w) = w := by
  apply BitVec.eq_of_getLsbD_eq
  intro i hi
  simp only [argHi, argByte, byteArg, BitVec.getLsbD_append, BitVec.getLsbD_extractLsb']
  split
  · rename_i h; simp [h]
  · rename_i h
    have h24 : i - 8 < 24 := by omega
    simp only [h24, decide_true, Bool.true_and]
    congr 1
    omega

/-- A frame byte built from fields is read back as the row of those fields. -/
theorem decodeFrame_frameByte (d : Nibble) (k3 k2 en rs : Bool) :
    decodeFrame (frameByte d k3 k2 en rs) = match k3, k2, en, rs with
      | false, false, false, false => .frameIdleCmd d
      | false, false, true, false => .frameStrobeCmd d
      | false, false, false, true => .frameIdleData d
      | false, false, true, true => .frameStrobeData d
      | _, _, _, _ => .frameGeneral d k3 k2 en rs := by
  revert d k3 k2 en rs
  decide

theorem natToBytes_length (k w : Nat) : (natToBytes k w).length = k := by
  induction k generalizing w with
  | zero => rfl
  | succ k ih => simp [natToBytes, ih]

/-- The lowest `k` bytes of a number that fits in them give it back. -/
theorem bytesToNat_natToBytes (k w : Nat) (h : w < 256 ^ k) : bytesToNat (natToBytes k w) = w := by
  induction k generalizing w with
  | zero => simp [natToBytes, bytesToNat]; omega
  | succ k ih =>
    have hw : w / 256 < 256 ^ k := by rw [Nat.pow_succ] at h; omega
    simp only [natToBytes, bytesToNat, ih _ hw, BitVec.toNat_ofNat]
    omega

@[simp] theorem decodeBytes_one (b : Byte) : decodeBytes [b] = .ok (decodeByte b) := rfl

/-- Everything `decodeBytes` can answer for more or fewer bytes than one. -/
theorem decodeBytes_cases (bs : List Byte) (h : bs.length ≠ 1) :
    (bs.length = 5 ∧ bytesToNat bs < 2 ^ 36 ∧
      decodeBytes bs = .ok (decodeRequest (BitVec.ofNat 36 (bytesToNat bs)))) ∨
    (bs.length = 5 ∧ 2 ^ 36 ≤ bytesToNat bs ∧ decodeBytes bs = .error (.bitsAboveRequest (bytesToNat bs))) ∨
    (bs.length ≠ 5 ∧ decodeBytes bs = .error (.wrongWidth bs.length)) := by
  have e : decodeBytes bs = if bs.length = 5 then
      if bytesToNat bs < 2 ^ 36 then .ok (decodeRequest (BitVec.ofNat 36 (bytesToNat bs)))
      else .error (.bitsAboveRequest (bytesToNat bs))
    else .error (.wrongWidth bs.length) := by
    match bs, h with
    | [], _ => rfl
    | [_], h => exact absurd rfl h
    | _ :: _ :: _, _ => rfl
  rw [e]
  split
  · split
    · exact .inl ⟨‹_›, ‹_›, rfl⟩
    · exact .inr (.inl ⟨‹_›, Nat.le_of_not_lt ‹_›, rfl⟩)
  · exact .inr (.inr ⟨‹_›, rfl⟩)

end Sys2Proof
end

