-- ==== Sys2Proof/Laws/State.lean ====
section
/-! SUPPORT. One lemma per field per state update, so that no proof unfolds a record update. -/

namespace Sys2Proof.Machine

variable (s : State)

/-! latchRequest -/

@[simp] theorem latchRequest_busy (op : Nibble) (arg : Word) : (latchRequest op arg s).busy = true := rfl
@[simp] theorem latchRequest_curOp (op : Nibble) (arg : Word) : (latchRequest op arg s).curOp = op := rfl
@[simp] theorem latchRequest_curArg (op : Nibble) (arg : Word) : (latchRequest op arg s).curArg = arg := rfl
@[simp] theorem latchRequest_todo (op : Nibble) (arg : Word) : (latchRequest op arg s).todo = s.todo := rfl
@[simp] theorem latchRequest_strActive (op : Nibble) (arg : Word) : (latchRequest op arg s).strActive = s.strActive := rfl
@[simp] theorem latchRequest_strPtr (op : Nibble) (arg : Word) : (latchRequest op arg s).strPtr = s.strPtr := rfl
@[simp] theorem latchRequest_resp (op : Nibble) (arg : Word) : (latchRequest op arg s).resp = s.resp := rfl
@[simp] theorem latchRequest_lcdCrit (op : Nibble) (arg : Word) : (latchRequest op arg s).lcdCrit = s.lcdCrit := rfl
@[simp] theorem latchRequest_csConfigured (op : Nibble) (arg : Word) : (latchRequest op arg s).csConfigured = s.csConfigured := rfl
@[simp] theorem latchRequest_lcdMode (op : Nibble) (arg : Word) : (latchRequest op arg s).lcdMode = s.lcdMode := rfl
@[simp] theorem latchRequest_out (op : Nibble) (arg : Word) : (latchRequest op arg s).out = s.out := rfl
@[simp] theorem latchRequest_tstate (op : Nibble) (arg : Word) : (latchRequest op arg s).tstate = s.tstate := rfl
@[simp] theorem latchRequest_timerRun (op : Nibble) (arg : Word) : (latchRequest op arg s).timerRun = s.timerRun := rfl
@[simp] theorem latchRequest_capCfg (op : Nibble) (arg : Word) : (latchRequest op arg s).capCfg = s.capCfg := rfl
@[simp] theorem latchRequest_capIe (op : Nibble) (arg : Word) : (latchRequest op arg s).capIe = s.capIe := rfl
@[simp] theorem latchRequest_vecEn (op : Nibble) (arg : Word) : (latchRequest op arg s).vecEn = s.vecEn := rfl
@[simp] theorem latchRequest_gie (op : Nibble) (arg : Word) : (latchRequest op arg s).gie = s.gie := rfl
@[simp] theorem latchRequest_counter (op : Nibble) (arg : Word) : (latchRequest op arg s).counter = s.counter := rfl
@[simp] theorem latchRequest_cap (op : Nibble) (arg : Word) : (latchRequest op arg s).cap = s.cap := rfl
@[simp] theorem latchRequest_pending (op : Nibble) (arg : Word) : (latchRequest op arg s).pending = s.pending := rfl
@[simp] theorem latchRequest_currentVal (op : Nibble) (arg : Word) : (latchRequest op arg s).currentVal = s.currentVal := rfl
@[simp] theorem latchRequest_previousVal (op : Nibble) (arg : Word) : (latchRequest op arg s).previousVal = s.previousVal := rfl
@[simp] theorem latchRequest_interval (op : Nibble) (arg : Word) : (latchRequest op arg s).interval = s.interval := rfl
@[simp] theorem latchRequest_speed (op : Nibble) (arg : Word) : (latchRequest op arg s).speed = s.speed := rfl
@[simp] theorem latchRequest_ncap (op : Nibble) (arg : Word) : (latchRequest op arg s).ncap = s.ncap := rfl
@[simp] theorem latchRequest_inHandler (op : Nibble) (arg : Word) : (latchRequest op arg s).inHandler = s.inHandler := rfl
@[simp] theorem latchRequest_status (op : Nibble) (arg : Word) : (latchRequest op arg s).status = s.status := rfl
@[simp] theorem latchRequest_req (op : Nibble) (arg : Word) : (latchRequest op arg s).req = s.req := rfl
@[simp] theorem latchRequest_doneCount (op : Nibble) (arg : Word) : (latchRequest op arg s).doneCount = s.doneCount := rfl
@[simp] theorem latchRequest_strmem (op : Nibble) (arg : Word) : (latchRequest op arg s).strmem = s.strmem := rfl
@[simp] theorem latchRequest_initPostSwitchDelayMs (op : Nibble) (arg : Word) : (latchRequest op arg s).initPostSwitchDelayMs = s.initPostSwitchDelayMs := rfl
@[simp] theorem latchRequest_speedReadTearing (op : Nibble) (arg : Word) : (latchRequest op arg s).speedReadTearing = s.speedReadTearing := rfl
@[simp] theorem latchRequest_readPos (op : Nibble) (arg : Word) : (latchRequest op arg s).readPos = s.readPos := rfl
@[simp] theorem latchRequest_sentBefore (op : Nibble) (arg : Word) : (latchRequest op arg s).sentBefore = s.sentBefore := rfl
@[simp] theorem latchRequest_agenda (op : Nibble) (arg : Word) : (latchRequest op arg s).agenda = s.agenda := rfl
@[simp] theorem latchRequest_draws (op : Nibble) (arg : Word) : (latchRequest op arg s).draws = s.draws := rfl
@[simp] theorem latchRequest_probe (op : Nibble) (arg : Word) : (latchRequest op arg s).probe = s.probe := rfl

/-! loadTodo -/

@[simp] theorem loadTodo_busy (es : List Event) : (loadTodo es s).busy = s.busy := rfl
@[simp] theorem loadTodo_curOp (es : List Event) : (loadTodo es s).curOp = s.curOp := rfl
@[simp] theorem loadTodo_curArg (es : List Event) : (loadTodo es s).curArg = s.curArg := rfl
@[simp] theorem loadTodo_todo (es : List Event) : (loadTodo es s).todo = es := rfl
@[simp] theorem loadTodo_strActive (es : List Event) : (loadTodo es s).strActive = false := rfl
@[simp] theorem loadTodo_strPtr (es : List Event) : (loadTodo es s).strPtr = s.strPtr := rfl
@[simp] theorem loadTodo_resp (es : List Event) : (loadTodo es s).resp = s.resp := rfl
@[simp] theorem loadTodo_lcdCrit (es : List Event) : (loadTodo es s).lcdCrit = s.lcdCrit := rfl
@[simp] theorem loadTodo_csConfigured (es : List Event) : (loadTodo es s).csConfigured = s.csConfigured := rfl
@[simp] theorem loadTodo_lcdMode (es : List Event) : (loadTodo es s).lcdMode = s.lcdMode := rfl
@[simp] theorem loadTodo_out (es : List Event) : (loadTodo es s).out = s.out := rfl
@[simp] theorem loadTodo_tstate (es : List Event) : (loadTodo es s).tstate = s.tstate := rfl
@[simp] theorem loadTodo_timerRun (es : List Event) : (loadTodo es s).timerRun = s.timerRun := rfl
@[simp] theorem loadTodo_capCfg (es : List Event) : (loadTodo es s).capCfg = s.capCfg := rfl
@[simp] theorem loadTodo_capIe (es : List Event) : (loadTodo es s).capIe = s.capIe := rfl
@[simp] theorem loadTodo_vecEn (es : List Event) : (loadTodo es s).vecEn = s.vecEn := rfl
@[simp] theorem loadTodo_gie (es : List Event) : (loadTodo es s).gie = s.gie := rfl
@[simp] theorem loadTodo_counter (es : List Event) : (loadTodo es s).counter = s.counter := rfl
@[simp] theorem loadTodo_cap (es : List Event) : (loadTodo es s).cap = s.cap := rfl
@[simp] theorem loadTodo_pending (es : List Event) : (loadTodo es s).pending = s.pending := rfl
@[simp] theorem loadTodo_currentVal (es : List Event) : (loadTodo es s).currentVal = s.currentVal := rfl
@[simp] theorem loadTodo_previousVal (es : List Event) : (loadTodo es s).previousVal = s.previousVal := rfl
@[simp] theorem loadTodo_interval (es : List Event) : (loadTodo es s).interval = s.interval := rfl
@[simp] theorem loadTodo_speed (es : List Event) : (loadTodo es s).speed = s.speed := rfl
@[simp] theorem loadTodo_ncap (es : List Event) : (loadTodo es s).ncap = s.ncap := rfl
@[simp] theorem loadTodo_inHandler (es : List Event) : (loadTodo es s).inHandler = s.inHandler := rfl
@[simp] theorem loadTodo_status (es : List Event) : (loadTodo es s).status = s.status := rfl
@[simp] theorem loadTodo_req (es : List Event) : (loadTodo es s).req = s.req := rfl
@[simp] theorem loadTodo_doneCount (es : List Event) : (loadTodo es s).doneCount = s.doneCount := rfl
@[simp] theorem loadTodo_strmem (es : List Event) : (loadTodo es s).strmem = s.strmem := rfl
@[simp] theorem loadTodo_initPostSwitchDelayMs (es : List Event) : (loadTodo es s).initPostSwitchDelayMs = s.initPostSwitchDelayMs := rfl
@[simp] theorem loadTodo_speedReadTearing (es : List Event) : (loadTodo es s).speedReadTearing = s.speedReadTearing := rfl
@[simp] theorem loadTodo_readPos (es : List Event) : (loadTodo es s).readPos = s.readPos := rfl
@[simp] theorem loadTodo_sentBefore (es : List Event) : (loadTodo es s).sentBefore = s.sentBefore := rfl
@[simp] theorem loadTodo_agenda (es : List Event) : (loadTodo es s).agenda = s.agenda := rfl
@[simp] theorem loadTodo_draws (es : List Event) : (loadTodo es s).draws = s.draws := rfl
@[simp] theorem loadTodo_probe (es : List Event) : (loadTodo es s).probe = s.probe := rfl

/-! loadIllegal -/

@[simp] theorem loadIllegal_busy : (loadIllegal s).busy = s.busy := rfl
@[simp] theorem loadIllegal_curOp : (loadIllegal s).curOp = s.curOp := rfl
@[simp] theorem loadIllegal_curArg : (loadIllegal s).curArg = s.curArg := rfl
@[simp] theorem loadIllegal_todo : (loadIllegal s).todo = [] := rfl
@[simp] theorem loadIllegal_strActive : (loadIllegal s).strActive = false := rfl
@[simp] theorem loadIllegal_strPtr : (loadIllegal s).strPtr = s.strPtr := rfl
@[simp] theorem loadIllegal_resp : (loadIllegal s).resp = s.resp := rfl
@[simp] theorem loadIllegal_lcdCrit : (loadIllegal s).lcdCrit = s.lcdCrit := rfl
@[simp] theorem loadIllegal_csConfigured : (loadIllegal s).csConfigured = s.csConfigured := rfl
@[simp] theorem loadIllegal_lcdMode : (loadIllegal s).lcdMode = s.lcdMode := rfl
@[simp] theorem loadIllegal_out : (loadIllegal s).out = s.out := rfl
@[simp] theorem loadIllegal_tstate : (loadIllegal s).tstate = s.tstate := rfl
@[simp] theorem loadIllegal_timerRun : (loadIllegal s).timerRun = s.timerRun := rfl
@[simp] theorem loadIllegal_capCfg : (loadIllegal s).capCfg = s.capCfg := rfl
@[simp] theorem loadIllegal_capIe : (loadIllegal s).capIe = s.capIe := rfl
@[simp] theorem loadIllegal_vecEn : (loadIllegal s).vecEn = s.vecEn := rfl
@[simp] theorem loadIllegal_gie : (loadIllegal s).gie = s.gie := rfl
@[simp] theorem loadIllegal_counter : (loadIllegal s).counter = s.counter := rfl
@[simp] theorem loadIllegal_cap : (loadIllegal s).cap = s.cap := rfl
@[simp] theorem loadIllegal_pending : (loadIllegal s).pending = s.pending := rfl
@[simp] theorem loadIllegal_currentVal : (loadIllegal s).currentVal = s.currentVal := rfl
@[simp] theorem loadIllegal_previousVal : (loadIllegal s).previousVal = s.previousVal := rfl
@[simp] theorem loadIllegal_interval : (loadIllegal s).interval = s.interval := rfl
@[simp] theorem loadIllegal_speed : (loadIllegal s).speed = s.speed := rfl
@[simp] theorem loadIllegal_ncap : (loadIllegal s).ncap = s.ncap := rfl
@[simp] theorem loadIllegal_inHandler : (loadIllegal s).inHandler = s.inHandler := rfl
@[simp] theorem loadIllegal_status : (loadIllegal s).status = s.status ||| 2 := rfl
@[simp] theorem loadIllegal_req : (loadIllegal s).req = s.req := rfl
@[simp] theorem loadIllegal_doneCount : (loadIllegal s).doneCount = s.doneCount := rfl
@[simp] theorem loadIllegal_strmem : (loadIllegal s).strmem = s.strmem := rfl
@[simp] theorem loadIllegal_initPostSwitchDelayMs : (loadIllegal s).initPostSwitchDelayMs = s.initPostSwitchDelayMs := rfl
@[simp] theorem loadIllegal_speedReadTearing : (loadIllegal s).speedReadTearing = s.speedReadTearing := rfl
@[simp] theorem loadIllegal_readPos : (loadIllegal s).readPos = s.readPos := rfl
@[simp] theorem loadIllegal_sentBefore : (loadIllegal s).sentBefore = s.sentBefore := rfl
@[simp] theorem loadIllegal_agenda : (loadIllegal s).agenda = s.agenda := rfl
@[simp] theorem loadIllegal_draws : (loadIllegal s).draws = s.draws := rfl
@[simp] theorem loadIllegal_probe : (loadIllegal s).probe = s.probe := rfl

/-! loadSpeedRead -/

@[simp] theorem loadSpeedRead_busy : (loadSpeedRead s).busy = s.busy := rfl
@[simp] theorem loadSpeedRead_curOp : (loadSpeedRead s).curOp = s.curOp := rfl
@[simp] theorem loadSpeedRead_curArg : (loadSpeedRead s).curArg = s.curArg := rfl
@[simp] theorem loadSpeedRead_todo : (loadSpeedRead s).todo = [] := rfl
@[simp] theorem loadSpeedRead_strActive : (loadSpeedRead s).strActive = false := rfl
@[simp] theorem loadSpeedRead_strPtr : (loadSpeedRead s).strPtr = s.strPtr := rfl
@[simp] theorem loadSpeedRead_resp : (loadSpeedRead s).resp = s.resp := rfl
@[simp] theorem loadSpeedRead_lcdCrit : (loadSpeedRead s).lcdCrit = s.lcdCrit := rfl
@[simp] theorem loadSpeedRead_csConfigured : (loadSpeedRead s).csConfigured = s.csConfigured := rfl
@[simp] theorem loadSpeedRead_lcdMode : (loadSpeedRead s).lcdMode = s.lcdMode := rfl
@[simp] theorem loadSpeedRead_out : (loadSpeedRead s).out = s.out := rfl
@[simp] theorem loadSpeedRead_tstate : (loadSpeedRead s).tstate = s.tstate := rfl
@[simp] theorem loadSpeedRead_timerRun : (loadSpeedRead s).timerRun = s.timerRun := rfl
@[simp] theorem loadSpeedRead_capCfg : (loadSpeedRead s).capCfg = s.capCfg := rfl
@[simp] theorem loadSpeedRead_capIe : (loadSpeedRead s).capIe = s.capIe := rfl
@[simp] theorem loadSpeedRead_vecEn : (loadSpeedRead s).vecEn = s.vecEn := rfl
@[simp] theorem loadSpeedRead_gie : (loadSpeedRead s).gie = s.gie := rfl
@[simp] theorem loadSpeedRead_counter : (loadSpeedRead s).counter = s.counter := rfl
@[simp] theorem loadSpeedRead_cap : (loadSpeedRead s).cap = s.cap := rfl
@[simp] theorem loadSpeedRead_pending : (loadSpeedRead s).pending = s.pending := rfl
@[simp] theorem loadSpeedRead_currentVal : (loadSpeedRead s).currentVal = s.currentVal := rfl
@[simp] theorem loadSpeedRead_previousVal : (loadSpeedRead s).previousVal = s.previousVal := rfl
@[simp] theorem loadSpeedRead_interval : (loadSpeedRead s).interval = s.interval := rfl
@[simp] theorem loadSpeedRead_speed : (loadSpeedRead s).speed = s.speed := rfl
@[simp] theorem loadSpeedRead_ncap : (loadSpeedRead s).ncap = s.ncap := rfl
@[simp] theorem loadSpeedRead_inHandler : (loadSpeedRead s).inHandler = s.inHandler := rfl
@[simp] theorem loadSpeedRead_status : (loadSpeedRead s).status = s.status := rfl
@[simp] theorem loadSpeedRead_req : (loadSpeedRead s).req = s.req := rfl
@[simp] theorem loadSpeedRead_doneCount : (loadSpeedRead s).doneCount = s.doneCount := rfl
@[simp] theorem loadSpeedRead_strmem : (loadSpeedRead s).strmem = s.strmem := rfl
@[simp] theorem loadSpeedRead_initPostSwitchDelayMs : (loadSpeedRead s).initPostSwitchDelayMs = s.initPostSwitchDelayMs := rfl
@[simp] theorem loadSpeedRead_speedReadTearing : (loadSpeedRead s).speedReadTearing = s.speedReadTearing := rfl
@[simp] theorem loadSpeedRead_readPos : (loadSpeedRead s).readPos = 0 := rfl
@[simp] theorem loadSpeedRead_sentBefore : (loadSpeedRead s).sentBefore = s.sentBefore := rfl
@[simp] theorem loadSpeedRead_agenda : (loadSpeedRead s).agenda = s.agenda := rfl
@[simp] theorem loadSpeedRead_draws : (loadSpeedRead s).draws = s.draws := rfl
@[simp] theorem loadSpeedRead_probe : (loadSpeedRead s).probe = s.probe := rfl

/-! raiseCaptureDegenerate -/

@[simp] theorem raiseCaptureDegenerate_busy : (raiseCaptureDegenerate s).busy = s.busy := rfl
@[simp] theorem raiseCaptureDegenerate_curOp : (raiseCaptureDegenerate s).curOp = s.curOp := rfl
@[simp] theorem raiseCaptureDegenerate_curArg : (raiseCaptureDegenerate s).curArg = s.curArg := rfl
@[simp] theorem raiseCaptureDegenerate_todo : (raiseCaptureDegenerate s).todo = s.todo := rfl
@[simp] theorem raiseCaptureDegenerate_strActive : (raiseCaptureDegenerate s).strActive = s.strActive := rfl
@[simp] theorem raiseCaptureDegenerate_strPtr : (raiseCaptureDegenerate s).strPtr = s.strPtr := rfl
@[simp] theorem raiseCaptureDegenerate_resp : (raiseCaptureDegenerate s).resp = s.resp := rfl
@[simp] theorem raiseCaptureDegenerate_lcdCrit : (raiseCaptureDegenerate s).lcdCrit = s.lcdCrit := rfl
@[simp] theorem raiseCaptureDegenerate_csConfigured : (raiseCaptureDegenerate s).csConfigured = s.csConfigured := rfl
@[simp] theorem raiseCaptureDegenerate_lcdMode : (raiseCaptureDegenerate s).lcdMode = s.lcdMode := rfl
@[simp] theorem raiseCaptureDegenerate_out : (raiseCaptureDegenerate s).out = s.out := rfl
@[simp] theorem raiseCaptureDegenerate_tstate : (raiseCaptureDegenerate s).tstate = s.tstate := rfl
@[simp] theorem raiseCaptureDegenerate_timerRun : (raiseCaptureDegenerate s).timerRun = s.timerRun := rfl
@[simp] theorem raiseCaptureDegenerate_capCfg : (raiseCaptureDegenerate s).capCfg = s.capCfg := rfl
@[simp] theorem raiseCaptureDegenerate_capIe : (raiseCaptureDegenerate s).capIe = s.capIe := rfl
@[simp] theorem raiseCaptureDegenerate_vecEn : (raiseCaptureDegenerate s).vecEn = s.vecEn := rfl
@[simp] theorem raiseCaptureDegenerate_gie : (raiseCaptureDegenerate s).gie = s.gie := rfl
@[simp] theorem raiseCaptureDegenerate_counter : (raiseCaptureDegenerate s).counter = s.counter := rfl
@[simp] theorem raiseCaptureDegenerate_cap : (raiseCaptureDegenerate s).cap = s.cap := rfl
@[simp] theorem raiseCaptureDegenerate_pending : (raiseCaptureDegenerate s).pending = s.pending := rfl
@[simp] theorem raiseCaptureDegenerate_currentVal : (raiseCaptureDegenerate s).currentVal = s.currentVal := rfl
@[simp] theorem raiseCaptureDegenerate_previousVal : (raiseCaptureDegenerate s).previousVal = s.previousVal := rfl
@[simp] theorem raiseCaptureDegenerate_interval : (raiseCaptureDegenerate s).interval = s.interval := rfl
@[simp] theorem raiseCaptureDegenerate_speed : (raiseCaptureDegenerate s).speed = s.speed := rfl
@[simp] theorem raiseCaptureDegenerate_ncap : (raiseCaptureDegenerate s).ncap = s.ncap := rfl
@[simp] theorem raiseCaptureDegenerate_inHandler : (raiseCaptureDegenerate s).inHandler = s.inHandler := rfl
@[simp] theorem raiseCaptureDegenerate_status : (raiseCaptureDegenerate s).status = s.status ||| 1 := rfl
@[simp] theorem raiseCaptureDegenerate_req : (raiseCaptureDegenerate s).req = s.req := rfl
@[simp] theorem raiseCaptureDegenerate_doneCount : (raiseCaptureDegenerate s).doneCount = s.doneCount := rfl
@[simp] theorem raiseCaptureDegenerate_strmem : (raiseCaptureDegenerate s).strmem = s.strmem := rfl
@[simp] theorem raiseCaptureDegenerate_initPostSwitchDelayMs : (raiseCaptureDegenerate s).initPostSwitchDelayMs = s.initPostSwitchDelayMs := rfl
@[simp] theorem raiseCaptureDegenerate_speedReadTearing : (raiseCaptureDegenerate s).speedReadTearing = s.speedReadTearing := rfl
@[simp] theorem raiseCaptureDegenerate_readPos : (raiseCaptureDegenerate s).readPos = s.readPos := rfl
@[simp] theorem raiseCaptureDegenerate_sentBefore : (raiseCaptureDegenerate s).sentBefore = s.sentBefore := rfl
@[simp] theorem raiseCaptureDegenerate_agenda : (raiseCaptureDegenerate s).agenda = s.agenda := rfl
@[simp] theorem raiseCaptureDegenerate_draws : (raiseCaptureDegenerate s).draws = s.draws := rfl
@[simp] theorem raiseCaptureDegenerate_probe : (raiseCaptureDegenerate s).probe = s.probe := rfl

/-! raiseIllegalOp -/

@[simp] theorem raiseIllegalOp_busy : (raiseIllegalOp s).busy = s.busy := rfl
@[simp] theorem raiseIllegalOp_curOp : (raiseIllegalOp s).curOp = s.curOp := rfl
@[simp] theorem raiseIllegalOp_curArg : (raiseIllegalOp s).curArg = s.curArg := rfl
@[simp] theorem raiseIllegalOp_todo : (raiseIllegalOp s).todo = s.todo := rfl
@[simp] theorem raiseIllegalOp_strActive : (raiseIllegalOp s).strActive = s.strActive := rfl
@[simp] theorem raiseIllegalOp_strPtr : (raiseIllegalOp s).strPtr = s.strPtr := rfl
@[simp] theorem raiseIllegalOp_resp : (raiseIllegalOp s).resp = s.resp := rfl
@[simp] theorem raiseIllegalOp_lcdCrit : (raiseIllegalOp s).lcdCrit = s.lcdCrit := rfl
@[simp] theorem raiseIllegalOp_csConfigured : (raiseIllegalOp s).csConfigured = s.csConfigured := rfl
@[simp] theorem raiseIllegalOp_lcdMode : (raiseIllegalOp s).lcdMode = s.lcdMode := rfl
@[simp] theorem raiseIllegalOp_out : (raiseIllegalOp s).out = s.out := rfl
@[simp] theorem raiseIllegalOp_tstate : (raiseIllegalOp s).tstate = s.tstate := rfl
@[simp] theorem raiseIllegalOp_timerRun : (raiseIllegalOp s).timerRun = s.timerRun := rfl
@[simp] theorem raiseIllegalOp_capCfg : (raiseIllegalOp s).capCfg = s.capCfg := rfl
@[simp] theorem raiseIllegalOp_capIe : (raiseIllegalOp s).capIe = s.capIe := rfl
@[simp] theorem raiseIllegalOp_vecEn : (raiseIllegalOp s).vecEn = s.vecEn := rfl
@[simp] theorem raiseIllegalOp_gie : (raiseIllegalOp s).gie = s.gie := rfl
@[simp] theorem raiseIllegalOp_counter : (raiseIllegalOp s).counter = s.counter := rfl
@[simp] theorem raiseIllegalOp_cap : (raiseIllegalOp s).cap = s.cap := rfl
@[simp] theorem raiseIllegalOp_pending : (raiseIllegalOp s).pending = s.pending := rfl
@[simp] theorem raiseIllegalOp_currentVal : (raiseIllegalOp s).currentVal = s.currentVal := rfl
@[simp] theorem raiseIllegalOp_previousVal : (raiseIllegalOp s).previousVal = s.previousVal := rfl
@[simp] theorem raiseIllegalOp_interval : (raiseIllegalOp s).interval = s.interval := rfl
@[simp] theorem raiseIllegalOp_speed : (raiseIllegalOp s).speed = s.speed := rfl
@[simp] theorem raiseIllegalOp_ncap : (raiseIllegalOp s).ncap = s.ncap := rfl
@[simp] theorem raiseIllegalOp_inHandler : (raiseIllegalOp s).inHandler = s.inHandler := rfl
@[simp] theorem raiseIllegalOp_status : (raiseIllegalOp s).status = s.status ||| 2 := rfl
@[simp] theorem raiseIllegalOp_req : (raiseIllegalOp s).req = s.req := rfl
@[simp] theorem raiseIllegalOp_doneCount : (raiseIllegalOp s).doneCount = s.doneCount := rfl
@[simp] theorem raiseIllegalOp_strmem : (raiseIllegalOp s).strmem = s.strmem := rfl
@[simp] theorem raiseIllegalOp_initPostSwitchDelayMs : (raiseIllegalOp s).initPostSwitchDelayMs = s.initPostSwitchDelayMs := rfl
@[simp] theorem raiseIllegalOp_speedReadTearing : (raiseIllegalOp s).speedReadTearing = s.speedReadTearing := rfl
@[simp] theorem raiseIllegalOp_readPos : (raiseIllegalOp s).readPos = s.readPos := rfl
@[simp] theorem raiseIllegalOp_sentBefore : (raiseIllegalOp s).sentBefore = s.sentBefore := rfl
@[simp] theorem raiseIllegalOp_agenda : (raiseIllegalOp s).agenda = s.agenda := rfl
@[simp] theorem raiseIllegalOp_draws : (raiseIllegalOp s).draws = s.draws := rfl
@[simp] theorem raiseIllegalOp_probe : (raiseIllegalOp s).probe = s.probe := rfl

/-! enterHandler -/

@[simp] theorem enterHandler_busy : (enterHandler s).busy = s.busy := rfl
@[simp] theorem enterHandler_curOp : (enterHandler s).curOp = s.curOp := rfl
@[simp] theorem enterHandler_curArg : (enterHandler s).curArg = s.curArg := rfl
@[simp] theorem enterHandler_todo : (enterHandler s).todo = s.todo := rfl
@[simp] theorem enterHandler_strActive : (enterHandler s).strActive = s.strActive := rfl
@[simp] theorem enterHandler_strPtr : (enterHandler s).strPtr = s.strPtr := rfl
@[simp] theorem enterHandler_resp : (enterHandler s).resp = s.resp := rfl
@[simp] theorem enterHandler_lcdCrit : (enterHandler s).lcdCrit = s.lcdCrit := rfl
@[simp] theorem enterHandler_csConfigured : (enterHandler s).csConfigured = s.csConfigured := rfl
@[simp] theorem enterHandler_lcdMode : (enterHandler s).lcdMode = s.lcdMode := rfl
@[simp] theorem enterHandler_out : (enterHandler s).out = s.out := rfl
@[simp] theorem enterHandler_tstate : (enterHandler s).tstate = s.tstate := rfl
@[simp] theorem enterHandler_timerRun : (enterHandler s).timerRun = s.timerRun := rfl
@[simp] theorem enterHandler_capCfg : (enterHandler s).capCfg = s.capCfg := rfl
@[simp] theorem enterHandler_capIe : (enterHandler s).capIe = s.capIe := rfl
@[simp] theorem enterHandler_vecEn : (enterHandler s).vecEn = s.vecEn := rfl
@[simp] theorem enterHandler_gie : (enterHandler s).gie = s.gie := rfl
@[simp] theorem enterHandler_counter : (enterHandler s).counter = s.counter := rfl
@[simp] theorem enterHandler_cap : (enterHandler s).cap = s.cap := rfl
@[simp] theorem enterHandler_pending : (enterHandler s).pending = false := rfl
@[simp] theorem enterHandler_currentVal : (enterHandler s).currentVal = s.currentVal := rfl
@[simp] theorem enterHandler_previousVal : (enterHandler s).previousVal = s.previousVal := rfl
@[simp] theorem enterHandler_interval : (enterHandler s).interval = s.interval := rfl
@[simp] theorem enterHandler_speed : (enterHandler s).speed = s.speed := rfl
@[simp] theorem enterHandler_ncap : (enterHandler s).ncap = s.ncap := rfl
@[simp] theorem enterHandler_inHandler : (enterHandler s).inHandler = true := rfl
@[simp] theorem enterHandler_status : (enterHandler s).status = s.status := rfl
@[simp] theorem enterHandler_req : (enterHandler s).req = s.req := rfl
@[simp] theorem enterHandler_doneCount : (enterHandler s).doneCount = s.doneCount := rfl
@[simp] theorem enterHandler_strmem : (enterHandler s).strmem = s.strmem := rfl
@[simp] theorem enterHandler_initPostSwitchDelayMs : (enterHandler s).initPostSwitchDelayMs = s.initPostSwitchDelayMs := rfl
@[simp] theorem enterHandler_speedReadTearing : (enterHandler s).speedReadTearing = s.speedReadTearing := rfl
@[simp] theorem enterHandler_readPos : (enterHandler s).readPos = s.readPos := rfl
@[simp] theorem enterHandler_sentBefore : (enterHandler s).sentBefore = s.sentBefore := rfl
@[simp] theorem enterHandler_agenda : (enterHandler s).agenda = s.agenda := rfl
@[simp] theorem enterHandler_draws : (enterHandler s).draws = s.draws := rfl
@[simp] theorem enterHandler_probe : (enterHandler s).probe = s.probe := rfl

/-! leaveHandler -/

@[simp] theorem leaveHandler_busy : (leaveHandler s).busy = s.busy := rfl
@[simp] theorem leaveHandler_curOp : (leaveHandler s).curOp = s.curOp := rfl
@[simp] theorem leaveHandler_curArg : (leaveHandler s).curArg = s.curArg := rfl
@[simp] theorem leaveHandler_todo : (leaveHandler s).todo = s.todo := rfl
@[simp] theorem leaveHandler_strActive : (leaveHandler s).strActive = s.strActive := rfl
@[simp] theorem leaveHandler_strPtr : (leaveHandler s).strPtr = s.strPtr := rfl
@[simp] theorem leaveHandler_resp : (leaveHandler s).resp = s.resp := rfl
@[simp] theorem leaveHandler_lcdCrit : (leaveHandler s).lcdCrit = s.lcdCrit := rfl
@[simp] theorem leaveHandler_csConfigured : (leaveHandler s).csConfigured = s.csConfigured := rfl
@[simp] theorem leaveHandler_lcdMode : (leaveHandler s).lcdMode = s.lcdMode := rfl
@[simp] theorem leaveHandler_out : (leaveHandler s).out = s.out := rfl
@[simp] theorem leaveHandler_tstate : (leaveHandler s).tstate = s.tstate := rfl
@[simp] theorem leaveHandler_timerRun : (leaveHandler s).timerRun = s.timerRun := rfl
@[simp] theorem leaveHandler_capCfg : (leaveHandler s).capCfg = s.capCfg := rfl
@[simp] theorem leaveHandler_capIe : (leaveHandler s).capIe = s.capIe := rfl
@[simp] theorem leaveHandler_vecEn : (leaveHandler s).vecEn = s.vecEn := rfl
@[simp] theorem leaveHandler_gie : (leaveHandler s).gie = s.gie := rfl
@[simp] theorem leaveHandler_counter : (leaveHandler s).counter = s.counter := rfl
@[simp] theorem leaveHandler_cap : (leaveHandler s).cap = s.cap := rfl
@[simp] theorem leaveHandler_pending : (leaveHandler s).pending = s.pending := rfl
@[simp] theorem leaveHandler_currentVal : (leaveHandler s).currentVal = s.currentVal := rfl
@[simp] theorem leaveHandler_previousVal : (leaveHandler s).previousVal = s.previousVal := rfl
@[simp] theorem leaveHandler_interval : (leaveHandler s).interval = s.interval := rfl
@[simp] theorem leaveHandler_speed : (leaveHandler s).speed = s.speed := rfl
@[simp] theorem leaveHandler_ncap : (leaveHandler s).ncap = s.ncap := rfl
@[simp] theorem leaveHandler_inHandler : (leaveHandler s).inHandler = false := rfl
@[simp] theorem leaveHandler_status : (leaveHandler s).status = s.status := rfl
@[simp] theorem leaveHandler_req : (leaveHandler s).req = s.req := rfl
@[simp] theorem leaveHandler_doneCount : (leaveHandler s).doneCount = s.doneCount := rfl
@[simp] theorem leaveHandler_strmem : (leaveHandler s).strmem = s.strmem := rfl
@[simp] theorem leaveHandler_initPostSwitchDelayMs : (leaveHandler s).initPostSwitchDelayMs = s.initPostSwitchDelayMs := rfl
@[simp] theorem leaveHandler_speedReadTearing : (leaveHandler s).speedReadTearing = s.speedReadTearing := rfl
@[simp] theorem leaveHandler_readPos : (leaveHandler s).readPos = s.readPos := rfl
@[simp] theorem leaveHandler_sentBefore : (leaveHandler s).sentBefore = s.sentBefore := rfl
@[simp] theorem leaveHandler_agenda : (leaveHandler s).agenda = s.agenda := rfl
@[simp] theorem leaveHandler_draws : (leaveHandler s).draws = s.draws := rfl
@[simp] theorem leaveHandler_probe : (leaveHandler s).probe = s.probe := rfl

/-! platformWrite -/

@[simp] theorem platformWrite_busy (a : Word) (b : Byte) : (platformWrite a b s).busy = s.busy := rfl
@[simp] theorem platformWrite_curOp (a : Word) (b : Byte) : (platformWrite a b s).curOp = s.curOp := rfl
@[simp] theorem platformWrite_curArg (a : Word) (b : Byte) : (platformWrite a b s).curArg = s.curArg := rfl
@[simp] theorem platformWrite_todo (a : Word) (b : Byte) : (platformWrite a b s).todo = s.todo := rfl
@[simp] theorem platformWrite_strActive (a : Word) (b : Byte) : (platformWrite a b s).strActive = s.strActive := rfl
@[simp] theorem platformWrite_strPtr (a : Word) (b : Byte) : (platformWrite a b s).strPtr = s.strPtr := rfl
@[simp] theorem platformWrite_resp (a : Word) (b : Byte) : (platformWrite a b s).resp = s.resp := rfl
@[simp] theorem platformWrite_lcdCrit (a : Word) (b : Byte) : (platformWrite a b s).lcdCrit = s.lcdCrit := rfl
@[simp] theorem platformWrite_csConfigured (a : Word) (b : Byte) : (platformWrite a b s).csConfigured = s.csConfigured := rfl
@[simp] theorem platformWrite_lcdMode (a : Word) (b : Byte) : (platformWrite a b s).lcdMode = s.lcdMode := rfl
@[simp] theorem platformWrite_out (a : Word) (b : Byte) : (platformWrite a b s).out = s.out := rfl
@[simp] theorem platformWrite_tstate (a : Word) (b : Byte) : (platformWrite a b s).tstate = s.tstate := rfl
@[simp] theorem platformWrite_timerRun (a : Word) (b : Byte) : (platformWrite a b s).timerRun = s.timerRun := rfl
@[simp] theorem platformWrite_capCfg (a : Word) (b : Byte) : (platformWrite a b s).capCfg = s.capCfg := rfl
@[simp] theorem platformWrite_capIe (a : Word) (b : Byte) : (platformWrite a b s).capIe = s.capIe := rfl
@[simp] theorem platformWrite_vecEn (a : Word) (b : Byte) : (platformWrite a b s).vecEn = s.vecEn := rfl
@[simp] theorem platformWrite_gie (a : Word) (b : Byte) : (platformWrite a b s).gie = s.gie := rfl
@[simp] theorem platformWrite_counter (a : Word) (b : Byte) : (platformWrite a b s).counter = s.counter := rfl
@[simp] theorem platformWrite_cap (a : Word) (b : Byte) : (platformWrite a b s).cap = s.cap := rfl
@[simp] theorem platformWrite_pending (a : Word) (b : Byte) : (platformWrite a b s).pending = s.pending := rfl
@[simp] theorem platformWrite_currentVal (a : Word) (b : Byte) : (platformWrite a b s).currentVal = s.currentVal := rfl
@[simp] theorem platformWrite_previousVal (a : Word) (b : Byte) : (platformWrite a b s).previousVal = s.previousVal := rfl
@[simp] theorem platformWrite_interval (a : Word) (b : Byte) : (platformWrite a b s).interval = s.interval := rfl
@[simp] theorem platformWrite_speed (a : Word) (b : Byte) : (platformWrite a b s).speed = s.speed := rfl
@[simp] theorem platformWrite_ncap (a : Word) (b : Byte) : (platformWrite a b s).ncap = s.ncap := rfl
@[simp] theorem platformWrite_inHandler (a : Word) (b : Byte) : (platformWrite a b s).inHandler = s.inHandler := rfl
@[simp] theorem platformWrite_status (a : Word) (b : Byte) : (platformWrite a b s).status = s.status := rfl
@[simp] theorem platformWrite_req (a : Word) (b : Byte) : (platformWrite a b s).req = s.req := rfl
@[simp] theorem platformWrite_doneCount (a : Word) (b : Byte) : (platformWrite a b s).doneCount = s.doneCount := rfl
@[simp] theorem platformWrite_strmem (a : Word) (b : Byte) : (platformWrite a b s).strmem = Memory.store s.strmem a.toNat b := rfl
@[simp] theorem platformWrite_initPostSwitchDelayMs (a : Word) (b : Byte) : (platformWrite a b s).initPostSwitchDelayMs = s.initPostSwitchDelayMs := rfl
@[simp] theorem platformWrite_speedReadTearing (a : Word) (b : Byte) : (platformWrite a b s).speedReadTearing = s.speedReadTearing := rfl
@[simp] theorem platformWrite_readPos (a : Word) (b : Byte) : (platformWrite a b s).readPos = s.readPos := rfl
@[simp] theorem platformWrite_sentBefore (a : Word) (b : Byte) : (platformWrite a b s).sentBefore = s.sentBefore := rfl
@[simp] theorem platformWrite_agenda (a : Word) (b : Byte) : (platformWrite a b s).agenda = s.agenda := rfl
@[simp] theorem platformWrite_draws (a : Word) (b : Byte) : (platformWrite a b s).draws = s.draws := rfl
@[simp] theorem platformWrite_probe (a : Word) (b : Byte) : (platformWrite a b s).probe = s.probe := rfl

/-! placeProbe -/

@[simp] theorem placeProbe_busy (bs : List Byte) : (placeProbe bs s).busy = s.busy := rfl
@[simp] theorem placeProbe_curOp (bs : List Byte) : (placeProbe bs s).curOp = s.curOp := rfl
@[simp] theorem placeProbe_curArg (bs : List Byte) : (placeProbe bs s).curArg = s.curArg := rfl
@[simp] theorem placeProbe_todo (bs : List Byte) : (placeProbe bs s).todo = s.todo := rfl
@[simp] theorem placeProbe_strActive (bs : List Byte) : (placeProbe bs s).strActive = s.strActive := rfl
@[simp] theorem placeProbe_strPtr (bs : List Byte) : (placeProbe bs s).strPtr = s.strPtr := rfl
@[simp] theorem placeProbe_resp (bs : List Byte) : (placeProbe bs s).resp = s.resp := rfl
@[simp] theorem placeProbe_lcdCrit (bs : List Byte) : (placeProbe bs s).lcdCrit = s.lcdCrit := rfl
@[simp] theorem placeProbe_csConfigured (bs : List Byte) : (placeProbe bs s).csConfigured = s.csConfigured := rfl
@[simp] theorem placeProbe_lcdMode (bs : List Byte) : (placeProbe bs s).lcdMode = s.lcdMode := rfl
@[simp] theorem placeProbe_out (bs : List Byte) : (placeProbe bs s).out = s.out := rfl
@[simp] theorem placeProbe_tstate (bs : List Byte) : (placeProbe bs s).tstate = s.tstate := rfl
@[simp] theorem placeProbe_timerRun (bs : List Byte) : (placeProbe bs s).timerRun = s.timerRun := rfl
@[simp] theorem placeProbe_capCfg (bs : List Byte) : (placeProbe bs s).capCfg = s.capCfg := rfl
@[simp] theorem placeProbe_capIe (bs : List Byte) : (placeProbe bs s).capIe = s.capIe := rfl
@[simp] theorem placeProbe_vecEn (bs : List Byte) : (placeProbe bs s).vecEn = s.vecEn := rfl
@[simp] theorem placeProbe_gie (bs : List Byte) : (placeProbe bs s).gie = s.gie := rfl
@[simp] theorem placeProbe_counter (bs : List Byte) : (placeProbe bs s).counter = s.counter := rfl
@[simp] theorem placeProbe_cap (bs : List Byte) : (placeProbe bs s).cap = s.cap := rfl
@[simp] theorem placeProbe_pending (bs : List Byte) : (placeProbe bs s).pending = s.pending := rfl
@[simp] theorem placeProbe_currentVal (bs : List Byte) : (placeProbe bs s).currentVal = s.currentVal := rfl
@[simp] theorem placeProbe_previousVal (bs : List Byte) : (placeProbe bs s).previousVal = s.previousVal := rfl
@[simp] theorem placeProbe_interval (bs : List Byte) : (placeProbe bs s).interval = s.interval := rfl
@[simp] theorem placeProbe_speed (bs : List Byte) : (placeProbe bs s).speed = s.speed := rfl
@[simp] theorem placeProbe_ncap (bs : List Byte) : (placeProbe bs s).ncap = s.ncap := rfl
@[simp] theorem placeProbe_inHandler (bs : List Byte) : (placeProbe bs s).inHandler = s.inHandler := rfl
@[simp] theorem placeProbe_status (bs : List Byte) : (placeProbe bs s).status = s.status := rfl
@[simp] theorem placeProbe_req (bs : List Byte) : (placeProbe bs s).req = s.req := rfl
@[simp] theorem placeProbe_doneCount (bs : List Byte) : (placeProbe bs s).doneCount = s.doneCount := rfl
@[simp] theorem placeProbe_strmem (bs : List Byte) : (placeProbe bs s).strmem = s.strmem := rfl
@[simp] theorem placeProbe_initPostSwitchDelayMs (bs : List Byte) : (placeProbe bs s).initPostSwitchDelayMs = s.initPostSwitchDelayMs := rfl
@[simp] theorem placeProbe_speedReadTearing (bs : List Byte) : (placeProbe bs s).speedReadTearing = s.speedReadTearing := rfl
@[simp] theorem placeProbe_readPos (bs : List Byte) : (placeProbe bs s).readPos = s.readPos := rfl
@[simp] theorem placeProbe_sentBefore (bs : List Byte) : (placeProbe bs s).sentBefore = s.sentBefore := rfl
@[simp] theorem placeProbe_agenda (bs : List Byte) : (placeProbe bs s).agenda = s.agenda := rfl
@[simp] theorem placeProbe_draws (bs : List Byte) : (placeProbe bs s).draws = s.draws := rfl
@[simp] theorem placeProbe_probe (bs : List Byte) : (placeProbe bs s).probe = bs := rfl

/-! emit -/

@[simp] theorem emit_busy (e : Event) : (emit e s).busy = s.busy := by cases e <;> rfl
@[simp] theorem emit_curOp (e : Event) : (emit e s).curOp = s.curOp := by cases e <;> rfl
@[simp] theorem emit_curArg (e : Event) : (emit e s).curArg = s.curArg := by cases e <;> rfl
@[simp] theorem emit_todo (e : Event) : (emit e s).todo = s.todo := by cases e <;> rfl
@[simp] theorem emit_strActive (e : Event) : (emit e s).strActive = s.strActive := by cases e <;> rfl
@[simp] theorem emit_strPtr (e : Event) : (emit e s).strPtr = s.strPtr := by cases e <;> rfl
@[simp] theorem emit_resp (e : Event) : (emit e s).resp = s.resp := by cases e <;> rfl
@[simp] theorem emit_lcdMode (e : Event) : (emit e s).lcdMode = s.lcdMode := by cases e <;> rfl
@[simp] theorem emit_out (e : Event) : (emit e s).out = s.out ++ [e] := by cases e <;> rfl
@[simp] theorem emit_tstate (e : Event) : (emit e s).tstate = s.tstate := by cases e <;> rfl
@[simp] theorem emit_timerRun (e : Event) : (emit e s).timerRun = s.timerRun := by cases e <;> rfl
@[simp] theorem emit_capCfg (e : Event) : (emit e s).capCfg = s.capCfg := by cases e <;> rfl
@[simp] theorem emit_capIe (e : Event) : (emit e s).capIe = s.capIe := by cases e <;> rfl
@[simp] theorem emit_vecEn (e : Event) : (emit e s).vecEn = s.vecEn := by cases e <;> rfl
@[simp] theorem emit_gie (e : Event) : (emit e s).gie = s.gie := by cases e <;> rfl
@[simp] theorem emit_counter (e : Event) : (emit e s).counter = s.counter := by cases e <;> rfl
@[simp] theorem emit_cap (e : Event) : (emit e s).cap = s.cap := by cases e <;> rfl
@[simp] theorem emit_pending (e : Event) : (emit e s).pending = s.pending := by cases e <;> rfl
@[simp] theorem emit_currentVal (e : Event) : (emit e s).currentVal = s.currentVal := by cases e <;> rfl
@[simp] theorem emit_previousVal (e : Event) : (emit e s).previousVal = s.previousVal := by cases e <;> rfl
@[simp] theorem emit_interval (e : Event) : (emit e s).interval = s.interval := by cases e <;> rfl
@[simp] theorem emit_speed (e : Event) : (emit e s).speed = s.speed := by cases e <;> rfl
@[simp] theorem emit_ncap (e : Event) : (emit e s).ncap = s.ncap := by cases e <;> rfl
@[simp] theorem emit_inHandler (e : Event) : (emit e s).inHandler = s.inHandler := by cases e <;> rfl
@[simp] theorem emit_status (e : Event) : (emit e s).status = s.status := by cases e <;> rfl
@[simp] theorem emit_req (e : Event) : (emit e s).req = s.req := by cases e <;> rfl
@[simp] theorem emit_doneCount (e : Event) : (emit e s).doneCount = s.doneCount := by cases e <;> rfl
@[simp] theorem emit_strmem (e : Event) : (emit e s).strmem = s.strmem := by cases e <;> rfl
@[simp] theorem emit_initPostSwitchDelayMs (e : Event) : (emit e s).initPostSwitchDelayMs = s.initPostSwitchDelayMs := by cases e <;> rfl
@[simp] theorem emit_speedReadTearing (e : Event) : (emit e s).speedReadTearing = s.speedReadTearing := by cases e <;> rfl
@[simp] theorem emit_readPos (e : Event) : (emit e s).readPos = s.readPos := by cases e <;> rfl
@[simp] theorem emit_sentBefore (e : Event) : (emit e s).sentBefore = s.sentBefore := by cases e <;> rfl
@[simp] theorem emit_agenda (e : Event) : (emit e s).agenda = s.agenda := by cases e <;> rfl
@[simp] theorem emit_draws (e : Event) : (emit e s).draws = s.draws := by cases e <;> rfl
@[simp] theorem emit_probe (e : Event) : (emit e s).probe = s.probe := by cases e <;> rfl

/-! lcdInitDone -/

@[simp] theorem lcdInitDone_busy : (lcdInitDone s).busy = s.busy := rfl
@[simp] theorem lcdInitDone_curOp : (lcdInitDone s).curOp = s.curOp := rfl
@[simp] theorem lcdInitDone_curArg : (lcdInitDone s).curArg = s.curArg := rfl
@[simp] theorem lcdInitDone_todo : (lcdInitDone s).todo = s.todo := rfl
@[simp] theorem lcdInitDone_strActive : (lcdInitDone s).strActive = s.strActive := rfl
@[simp] theorem lcdInitDone_strPtr : (lcdInitDone s).strPtr = s.strPtr := rfl
@[simp] theorem lcdInitDone_resp : (lcdInitDone s).resp = s.resp := rfl
@[simp] theorem lcdInitDone_lcdCrit : (lcdInitDone s).lcdCrit = s.lcdCrit := rfl
@[simp] theorem lcdInitDone_csConfigured : (lcdInitDone s).csConfigured = s.csConfigured := rfl
@[simp] theorem lcdInitDone_lcdMode : (lcdInitDone s).lcdMode = .ready := rfl
@[simp] theorem lcdInitDone_out : (lcdInitDone s).out = s.out := rfl
@[simp] theorem lcdInitDone_tstate : (lcdInitDone s).tstate = s.tstate := rfl
@[simp] theorem lcdInitDone_timerRun : (lcdInitDone s).timerRun = s.timerRun := rfl
@[simp] theorem lcdInitDone_capCfg : (lcdInitDone s).capCfg = s.capCfg := rfl
@[simp] theorem lcdInitDone_capIe : (lcdInitDone s).capIe = s.capIe := rfl
@[simp] theorem lcdInitDone_vecEn : (lcdInitDone s).vecEn = s.vecEn := rfl
@[simp] theorem lcdInitDone_gie : (lcdInitDone s).gie = s.gie := rfl
@[simp] theorem lcdInitDone_counter : (lcdInitDone s).counter = s.counter := rfl
@[simp] theorem lcdInitDone_cap : (lcdInitDone s).cap = s.cap := rfl
@[simp] theorem lcdInitDone_pending : (lcdInitDone s).pending = s.pending := rfl
@[simp] theorem lcdInitDone_currentVal : (lcdInitDone s).currentVal = s.currentVal := rfl
@[simp] theorem lcdInitDone_previousVal : (lcdInitDone s).previousVal = s.previousVal := rfl
@[simp] theorem lcdInitDone_interval : (lcdInitDone s).interval = s.interval := rfl
@[simp] theorem lcdInitDone_speed : (lcdInitDone s).speed = s.speed := rfl
@[simp] theorem lcdInitDone_ncap : (lcdInitDone s).ncap = s.ncap := rfl
@[simp] theorem lcdInitDone_inHandler : (lcdInitDone s).inHandler = s.inHandler := rfl
@[simp] theorem lcdInitDone_status : (lcdInitDone s).status = s.status := rfl
@[simp] theorem lcdInitDone_req : (lcdInitDone s).req = s.req := rfl
@[simp] theorem lcdInitDone_doneCount : (lcdInitDone s).doneCount = s.doneCount := rfl
@[simp] theorem lcdInitDone_strmem : (lcdInitDone s).strmem = s.strmem := rfl
@[simp] theorem lcdInitDone_initPostSwitchDelayMs : (lcdInitDone s).initPostSwitchDelayMs = s.initPostSwitchDelayMs := rfl
@[simp] theorem lcdInitDone_speedReadTearing : (lcdInitDone s).speedReadTearing = s.speedReadTearing := rfl
@[simp] theorem lcdInitDone_readPos : (lcdInitDone s).readPos = s.readPos := rfl
@[simp] theorem lcdInitDone_sentBefore : (lcdInitDone s).sentBefore = s.sentBefore := rfl
@[simp] theorem lcdInitDone_agenda : (lcdInitDone s).agenda = s.agenda := rfl
@[simp] theorem lcdInitDone_draws : (lcdInitDone s).draws = s.draws := rfl
@[simp] theorem lcdInitDone_probe : (lcdInitDone s).probe = s.probe := rfl

/-! signalDone -/

@[simp] theorem signalDone_busy : (signalDone s).busy = false := rfl
@[simp] theorem signalDone_curOp : (signalDone s).curOp = s.curOp := rfl
@[simp] theorem signalDone_curArg : (signalDone s).curArg = s.curArg := rfl
@[simp] theorem signalDone_todo : (signalDone s).todo = s.todo := rfl
@[simp] theorem signalDone_strActive : (signalDone s).strActive = s.strActive := rfl
@[simp] theorem signalDone_strPtr : (signalDone s).strPtr = s.strPtr := rfl
@[simp] theorem signalDone_resp : (signalDone s).resp = s.resp := rfl
@[simp] theorem signalDone_lcdCrit : (signalDone s).lcdCrit = s.lcdCrit := rfl
@[simp] theorem signalDone_csConfigured : (signalDone s).csConfigured = s.csConfigured := rfl
@[simp] theorem signalDone_lcdMode : (signalDone s).lcdMode = s.lcdMode := rfl
@[simp] theorem signalDone_out : (signalDone s).out = s.out := rfl
@[simp] theorem signalDone_tstate : (signalDone s).tstate = s.tstate := rfl
@[simp] theorem signalDone_timerRun : (signalDone s).timerRun = s.timerRun := rfl
@[simp] theorem signalDone_capCfg : (signalDone s).capCfg = s.capCfg := rfl
@[simp] theorem signalDone_capIe : (signalDone s).capIe = s.capIe := rfl
@[simp] theorem signalDone_vecEn : (signalDone s).vecEn = s.vecEn := rfl
@[simp] theorem signalDone_gie : (signalDone s).gie = s.gie := rfl
@[simp] theorem signalDone_counter : (signalDone s).counter = s.counter := rfl
@[simp] theorem signalDone_cap : (signalDone s).cap = s.cap := rfl
@[simp] theorem signalDone_pending : (signalDone s).pending = s.pending := rfl
@[simp] theorem signalDone_currentVal : (signalDone s).currentVal = s.currentVal := rfl
@[simp] theorem signalDone_previousVal : (signalDone s).previousVal = s.previousVal := rfl
@[simp] theorem signalDone_interval : (signalDone s).interval = s.interval := rfl
@[simp] theorem signalDone_speed : (signalDone s).speed = s.speed := rfl
@[simp] theorem signalDone_ncap : (signalDone s).ncap = s.ncap := rfl
@[simp] theorem signalDone_inHandler : (signalDone s).inHandler = s.inHandler := rfl
@[simp] theorem signalDone_status : (signalDone s).status = s.status := rfl
@[simp] theorem signalDone_req : (signalDone s).req = s.req := rfl
@[simp] theorem signalDone_doneCount : (signalDone s).doneCount = s.doneCount + 1 := rfl
@[simp] theorem signalDone_strmem : (signalDone s).strmem = s.strmem := rfl
@[simp] theorem signalDone_initPostSwitchDelayMs : (signalDone s).initPostSwitchDelayMs = s.initPostSwitchDelayMs := rfl
@[simp] theorem signalDone_speedReadTearing : (signalDone s).speedReadTearing = s.speedReadTearing := rfl
@[simp] theorem signalDone_readPos : (signalDone s).readPos = s.readPos := rfl
@[simp] theorem signalDone_sentBefore : (signalDone s).sentBefore = s.sentBefore := rfl
@[simp] theorem signalDone_agenda : (signalDone s).agenda = s.agenda := rfl
@[simp] theorem signalDone_draws : (signalDone s).draws = s.draws := rfl
@[simp] theorem signalDone_probe : (signalDone s).probe = s.probe := rfl

/-! tornReadStep -/

@[simp] theorem tornReadStep_busy : (tornReadStep s).busy = s.busy := rfl
@[simp] theorem tornReadStep_curOp : (tornReadStep s).curOp = s.curOp := rfl
@[simp] theorem tornReadStep_curArg : (tornReadStep s).curArg = s.curArg := rfl
@[simp] theorem tornReadStep_todo : (tornReadStep s).todo = s.todo := rfl
@[simp] theorem tornReadStep_strActive : (tornReadStep s).strActive = s.strActive := rfl
@[simp] theorem tornReadStep_strPtr : (tornReadStep s).strPtr = s.strPtr := rfl
@[simp] theorem tornReadStep_resp : (tornReadStep s).resp = copyByte s.readPos s.speed s.resp := rfl
@[simp] theorem tornReadStep_lcdCrit : (tornReadStep s).lcdCrit = s.lcdCrit := rfl
@[simp] theorem tornReadStep_csConfigured : (tornReadStep s).csConfigured = s.csConfigured := rfl
@[simp] theorem tornReadStep_lcdMode : (tornReadStep s).lcdMode = s.lcdMode := rfl
@[simp] theorem tornReadStep_out : (tornReadStep s).out = s.out := rfl
@[simp] theorem tornReadStep_tstate : (tornReadStep s).tstate = s.tstate := rfl
@[simp] theorem tornReadStep_timerRun : (tornReadStep s).timerRun = s.timerRun := rfl
@[simp] theorem tornReadStep_capCfg : (tornReadStep s).capCfg = s.capCfg := rfl
@[simp] theorem tornReadStep_capIe : (tornReadStep s).capIe = s.capIe := rfl
@[simp] theorem tornReadStep_vecEn : (tornReadStep s).vecEn = s.vecEn := rfl
@[simp] theorem tornReadStep_gie : (tornReadStep s).gie = s.gie := rfl
@[simp] theorem tornReadStep_counter : (tornReadStep s).counter = s.counter := rfl
@[simp] theorem tornReadStep_cap : (tornReadStep s).cap = s.cap := rfl
@[simp] theorem tornReadStep_pending : (tornReadStep s).pending = s.pending := rfl
@[simp] theorem tornReadStep_currentVal : (tornReadStep s).currentVal = s.currentVal := rfl
@[simp] theorem tornReadStep_previousVal : (tornReadStep s).previousVal = s.previousVal := rfl
@[simp] theorem tornReadStep_interval : (tornReadStep s).interval = s.interval := rfl
@[simp] theorem tornReadStep_speed : (tornReadStep s).speed = s.speed := rfl
@[simp] theorem tornReadStep_ncap : (tornReadStep s).ncap = s.ncap := rfl
@[simp] theorem tornReadStep_inHandler : (tornReadStep s).inHandler = s.inHandler := rfl
@[simp] theorem tornReadStep_status : (tornReadStep s).status = s.status := rfl
@[simp] theorem tornReadStep_req : (tornReadStep s).req = s.req := rfl
@[simp] theorem tornReadStep_doneCount : (tornReadStep s).doneCount = s.doneCount := rfl
@[simp] theorem tornReadStep_strmem : (tornReadStep s).strmem = s.strmem := rfl
@[simp] theorem tornReadStep_initPostSwitchDelayMs : (tornReadStep s).initPostSwitchDelayMs = s.initPostSwitchDelayMs := rfl
@[simp] theorem tornReadStep_speedReadTearing : (tornReadStep s).speedReadTearing = s.speedReadTearing := rfl
@[simp] theorem tornReadStep_readPos : (tornReadStep s).readPos = s.readPos + 1 := rfl
@[simp] theorem tornReadStep_sentBefore : (tornReadStep s).sentBefore = s.sentBefore := rfl
@[simp] theorem tornReadStep_agenda : (tornReadStep s).agenda = s.agenda := rfl
@[simp] theorem tornReadStep_draws : (tornReadStep s).draws = s.draws := rfl
@[simp] theorem tornReadStep_probe : (tornReadStep s).probe = s.probe := rfl

/-! tachInitDone -/

@[simp] theorem tachInitDone_busy : (tachInitDone s).busy = s.busy := rfl
@[simp] theorem tachInitDone_curOp : (tachInitDone s).curOp = s.curOp := rfl
@[simp] theorem tachInitDone_curArg : (tachInitDone s).curArg = s.curArg := rfl
@[simp] theorem tachInitDone_todo : (tachInitDone s).todo = s.todo := rfl
@[simp] theorem tachInitDone_strActive : (tachInitDone s).strActive = s.strActive := rfl
@[simp] theorem tachInitDone_strPtr : (tachInitDone s).strPtr = s.strPtr := rfl
@[simp] theorem tachInitDone_resp : (tachInitDone s).resp = s.resp := rfl
@[simp] theorem tachInitDone_lcdCrit : (tachInitDone s).lcdCrit = s.lcdCrit := rfl
@[simp] theorem tachInitDone_csConfigured : (tachInitDone s).csConfigured = s.csConfigured := rfl
@[simp] theorem tachInitDone_lcdMode : (tachInitDone s).lcdMode = s.lcdMode := rfl
@[simp] theorem tachInitDone_out : (tachInitDone s).out = s.out := rfl
@[simp] theorem tachInitDone_tstate : (tachInitDone s).tstate = if s.tstate = .uninitialized then .configured else s.tstate := rfl
@[simp] theorem tachInitDone_timerRun : (tachInitDone s).timerRun = true := rfl
@[simp] theorem tachInitDone_capCfg : (tachInitDone s).capCfg = true := rfl
@[simp] theorem tachInitDone_capIe : (tachInitDone s).capIe = true := rfl
@[simp] theorem tachInitDone_vecEn : (tachInitDone s).vecEn = true := rfl
@[simp] theorem tachInitDone_gie : (tachInitDone s).gie = true := rfl
@[simp] theorem tachInitDone_counter : (tachInitDone s).counter = Config.counterMax := rfl
@[simp] theorem tachInitDone_cap : (tachInitDone s).cap = s.cap := rfl
@[simp] theorem tachInitDone_pending : (tachInitDone s).pending = false := rfl
@[simp] theorem tachInitDone_currentVal : (tachInitDone s).currentVal = s.currentVal := rfl
@[simp] theorem tachInitDone_previousVal : (tachInitDone s).previousVal = s.previousVal := rfl
@[simp] theorem tachInitDone_interval : (tachInitDone s).interval = s.interval := rfl
@[simp] theorem tachInitDone_speed : (tachInitDone s).speed = s.speed := rfl
@[simp] theorem tachInitDone_ncap : (tachInitDone s).ncap = s.ncap := rfl
@[simp] theorem tachInitDone_inHandler : (tachInitDone s).inHandler = s.inHandler := rfl
@[simp] theorem tachInitDone_status : (tachInitDone s).status = s.status := rfl
@[simp] theorem tachInitDone_req : (tachInitDone s).req = s.req := rfl
@[simp] theorem tachInitDone_doneCount : (tachInitDone s).doneCount = s.doneCount := rfl
@[simp] theorem tachInitDone_strmem : (tachInitDone s).strmem = s.strmem := rfl
@[simp] theorem tachInitDone_initPostSwitchDelayMs : (tachInitDone s).initPostSwitchDelayMs = s.initPostSwitchDelayMs := rfl
@[simp] theorem tachInitDone_speedReadTearing : (tachInitDone s).speedReadTearing = s.speedReadTearing := rfl
@[simp] theorem tachInitDone_readPos : (tachInitDone s).readPos = s.readPos := rfl
@[simp] theorem tachInitDone_sentBefore : (tachInitDone s).sentBefore = s.sentBefore := rfl
@[simp] theorem tachInitDone_agenda : (tachInitDone s).agenda = s.agenda := rfl
@[simp] theorem tachInitDone_draws : (tachInitDone s).draws = s.draws := rfl
@[simp] theorem tachInitDone_probe : (tachInitDone s).probe = s.probe := rfl

/-! shiftCapture -/

@[simp] theorem shiftCapture_busy : (shiftCapture s).busy = s.busy := rfl
@[simp] theorem shiftCapture_curOp : (shiftCapture s).curOp = s.curOp := rfl
@[simp] theorem shiftCapture_curArg : (shiftCapture s).curArg = s.curArg := rfl
@[simp] theorem shiftCapture_todo : (shiftCapture s).todo = s.todo := rfl
@[simp] theorem shiftCapture_strActive : (shiftCapture s).strActive = s.strActive := rfl
@[simp] theorem shiftCapture_strPtr : (shiftCapture s).strPtr = s.strPtr := rfl
@[simp] theorem shiftCapture_resp : (shiftCapture s).resp = s.resp := rfl
@[simp] theorem shiftCapture_lcdCrit : (shiftCapture s).lcdCrit = s.lcdCrit := rfl
@[simp] theorem shiftCapture_csConfigured : (shiftCapture s).csConfigured = s.csConfigured := rfl
@[simp] theorem shiftCapture_lcdMode : (shiftCapture s).lcdMode = s.lcdMode := rfl
@[simp] theorem shiftCapture_out : (shiftCapture s).out = s.out := rfl
@[simp] theorem shiftCapture_tstate : (shiftCapture s).tstate = s.tstate := rfl
@[simp] theorem shiftCapture_timerRun : (shiftCapture s).timerRun = s.timerRun := rfl
@[simp] theorem shiftCapture_capCfg : (shiftCapture s).capCfg = s.capCfg := rfl
@[simp] theorem shiftCapture_capIe : (shiftCapture s).capIe = s.capIe := rfl
@[simp] theorem shiftCapture_vecEn : (shiftCapture s).vecEn = s.vecEn := rfl
@[simp] theorem shiftCapture_gie : (shiftCapture s).gie = s.gie := rfl
@[simp] theorem shiftCapture_counter : (shiftCapture s).counter = s.counter := rfl
@[simp] theorem shiftCapture_cap : (shiftCapture s).cap = s.cap := rfl
@[simp] theorem shiftCapture_pending : (shiftCapture s).pending = s.pending := rfl
@[simp] theorem shiftCapture_currentVal : (shiftCapture s).currentVal = s.cap := rfl
@[simp] theorem shiftCapture_previousVal : (shiftCapture s).previousVal = s.currentVal := rfl
@[simp] theorem shiftCapture_interval : (shiftCapture s).interval = intervalOf s.currentVal s.cap := rfl
@[simp] theorem shiftCapture_speed : (shiftCapture s).speed = speedOf (intervalOf s.currentVal s.cap) := rfl
@[simp] theorem shiftCapture_ncap : (shiftCapture s).ncap = s.ncap := rfl
@[simp] theorem shiftCapture_inHandler : (shiftCapture s).inHandler = s.inHandler := rfl
@[simp] theorem shiftCapture_status : (shiftCapture s).status = s.status := rfl
@[simp] theorem shiftCapture_req : (shiftCapture s).req = s.req := rfl
@[simp] theorem shiftCapture_doneCount : (shiftCapture s).doneCount = s.doneCount := rfl
@[simp] theorem shiftCapture_strmem : (shiftCapture s).strmem = s.strmem := rfl
@[simp] theorem shiftCapture_initPostSwitchDelayMs : (shiftCapture s).initPostSwitchDelayMs = s.initPostSwitchDelayMs := rfl
@[simp] theorem shiftCapture_speedReadTearing : (shiftCapture s).speedReadTearing = s.speedReadTearing := rfl
@[simp] theorem shiftCapture_readPos : (shiftCapture s).readPos = s.readPos := rfl
@[simp] theorem shiftCapture_sentBefore : (shiftCapture s).sentBefore = s.sentBefore := rfl
@[simp] theorem shiftCapture_agenda : (shiftCapture s).agenda = s.agenda := rfl
@[simp] theorem shiftCapture_draws : (shiftCapture s).draws = s.draws := rfl
@[simp] theorem shiftCapture_probe : (shiftCapture s).probe = s.probe := rfl

/-! countCapture -/

@[simp] theorem countCapture_busy : (countCapture s).busy = s.busy := rfl
@[simp] theorem countCapture_curOp : (countCapture s).curOp = s.curOp := rfl
@[simp] theorem countCapture_curArg : (countCapture s).curArg = s.curArg := rfl
@[simp] theorem countCapture_todo : (countCapture s).todo = s.todo := rfl
@[simp] theorem countCapture_strActive : (countCapture s).strActive = s.strActive := rfl
@[simp] theorem countCapture_strPtr : (countCapture s).strPtr = s.strPtr := rfl
@[simp] theorem countCapture_resp : (countCapture s).resp = s.resp := rfl
@[simp] theorem countCapture_lcdCrit : (countCapture s).lcdCrit = s.lcdCrit := rfl
@[simp] theorem countCapture_csConfigured : (countCapture s).csConfigured = s.csConfigured := rfl
@[simp] theorem countCapture_lcdMode : (countCapture s).lcdMode = s.lcdMode := rfl
@[simp] theorem countCapture_out : (countCapture s).out = s.out := rfl
@[simp] theorem countCapture_tstate : (countCapture s).tstate = s.tstate := rfl
@[simp] theorem countCapture_timerRun : (countCapture s).timerRun = s.timerRun := rfl
@[simp] theorem countCapture_capCfg : (countCapture s).capCfg = s.capCfg := rfl
@[simp] theorem countCapture_capIe : (countCapture s).capIe = s.capIe := rfl
@[simp] theorem countCapture_vecEn : (countCapture s).vecEn = s.vecEn := rfl
@[simp] theorem countCapture_gie : (countCapture s).gie = s.gie := rfl
@[simp] theorem countCapture_counter : (countCapture s).counter = s.counter := rfl
@[simp] theorem countCapture_cap : (countCapture s).cap = s.cap := rfl
@[simp] theorem countCapture_pending : (countCapture s).pending = s.pending := rfl
@[simp] theorem countCapture_currentVal : (countCapture s).currentVal = s.currentVal := rfl
@[simp] theorem countCapture_previousVal : (countCapture s).previousVal = s.previousVal := rfl
@[simp] theorem countCapture_interval : (countCapture s).interval = s.interval := rfl
@[simp] theorem countCapture_speed : (countCapture s).speed = s.speed := rfl
@[simp] theorem countCapture_ncap : (countCapture s).ncap = ncapNext s.ncap := rfl
@[simp] theorem countCapture_inHandler : (countCapture s).inHandler = s.inHandler := rfl
@[simp] theorem countCapture_status : (countCapture s).status = s.status := rfl
@[simp] theorem countCapture_req : (countCapture s).req = s.req := rfl
@[simp] theorem countCapture_doneCount : (countCapture s).doneCount = s.doneCount := rfl
@[simp] theorem countCapture_strmem : (countCapture s).strmem = s.strmem := rfl
@[simp] theorem countCapture_initPostSwitchDelayMs : (countCapture s).initPostSwitchDelayMs = s.initPostSwitchDelayMs := rfl
@[simp] theorem countCapture_speedReadTearing : (countCapture s).speedReadTearing = s.speedReadTearing := rfl
@[simp] theorem countCapture_readPos : (countCapture s).readPos = s.readPos := rfl
@[simp] theorem countCapture_sentBefore : (countCapture s).sentBefore = s.sentBefore := rfl
@[simp] theorem countCapture_agenda : (countCapture s).agenda = s.agenda := rfl
@[simp] theorem countCapture_draws : (countCapture s).draws = s.draws := rfl
@[simp] theorem countCapture_probe : (countCapture s).probe = s.probe := rfl

@[simp] theorem emit_lcdCrit_enter : (emit .critEnter s).lcdCrit = true := rfl
@[simp] theorem emit_lcdCrit_exit : (emit .critExit s).lcdCrit = false := rfl
@[simp] theorem emit_lcdCrit_tx (b : Byte) : (emit (.tx b) s).lcdCrit = s.lcdCrit := rfl
@[simp] theorem emit_lcdCrit_delay (n : Nat) : (emit (.delay n) s).lcdCrit = s.lcdCrit := rfl
@[simp] theorem emit_lcdCrit_csInit : (emit .csInit s).lcdCrit = s.lcdCrit := rfl
@[simp] theorem emit_csConfigured_csInit : (emit .csInit s).csConfigured = true := rfl
@[simp] theorem emit_csConfigured_tx (b : Byte) : (emit (.tx b) s).csConfigured = s.csConfigured := rfl
@[simp] theorem emit_csConfigured_delay (n : Nat) : (emit (.delay n) s).csConfigured = s.csConfigured := rfl
@[simp] theorem emit_csConfigured_enter : (emit .critEnter s).csConfigured = s.csConfigured := rfl
@[simp] theorem emit_csConfigured_exit : (emit .critExit s).csConfigured = s.csConfigured := rfl

end Sys2Proof.Machine
end

