-- ==== Sys2Proof/Laws/Ops.lean ====
section
/-! SUPPORT. What each shared operation can do, said once: the outcome lemmas of `acceptStep`, `runInPlace`, `emitAll`,
`seqStep`, `fetch` and `step`, and the laws of the string space. -/

namespace Sys2Proof.Machine

/-! Outcomes. -/

theorem acceptStep_cases (op : Nibble) (arg : Word) (load : State → State) (s : State) :
    (canAccept s = true ∧ acceptStep op arg load s = .next (load (latchRequest op arg s))) ∨
    (canAccept s = false ∧ acceptStep op arg load s = .next s) := by
  unfold acceptStep
  cases h : canAccept s <;> simp

theorem canAccept_iff (s : State) : canAccept s = true ↔ s.busy = false ∧ s.inHandler = false := by
  simp [canAccept]

theorem canSeq_iff (s : State) : canSeq s = true ↔ s.busy = true ∧ s.inHandler = false := by
  simp [canSeq]

theorem canTakeInterrupt_iff (s : State) :
    canTakeInterrupt s = true ↔ s.pending = true ∧ s.capIe = true ∧ s.vecEn = true ∧ s.gie = true ∧
      s.lcdCrit = false ∧ s.inHandler = false := by
  simp [canTakeInterrupt, and_assoc]

theorem runInPlace_cases (es : List Event) (s : State) :
    (s.inHandler = true ∧ runInPlace es s = .next s) ∨
    (s.inHandler = false ∧ runInPlace es s = .next (emitAll es s)) := by
  unfold runInPlace
  cases h : s.inHandler <;> simp

theorem irqAck_cases (s : State) :
    (canTakeInterrupt s = true ∧ execIrqAck s = .next (enterHandler s)) ∨
    (canTakeInterrupt s = false ∧ execIrqAck s = .next s) := by
  unfold execIrqAck
  cases h : canTakeInterrupt s <;> simp

theorem flagCapture_eq (s : State) :
    flagCapture s = { s with
      status := if isDegenerate s.ncap s.interval s.previousVal s.currentVal then s.status ||| 1 else s.status } := by
  unfold flagCapture
  split <;> rfl

/-- What `IRQ_BODY` does, said once (43_tachometer R167). -/
theorem irqBodyStep_eq (s : State) :
    irqBodyStep s = { s with
      previousVal := s.currentVal, currentVal := s.cap, interval := intervalOf s.currentVal s.cap,
      speed := speedOf (intervalOf s.currentVal s.cap), ncap := ncapNext s.ncap, inHandler := false,
      status := if isDegenerate s.ncap (intervalOf s.currentVal s.cap) s.currentVal s.cap
        then s.status ||| 1 else s.status } := by
  rw [irqBodyStep, flagCapture_eq]
  rfl

theorem irqBody_cases (s : State) :
    (s.inHandler = true ∧ execIrqBody s = .next (irqBodyStep s)) ∨
    (s.inHandler = false ∧ execIrqBody s = .next s) := by
  unfold execIrqBody
  cases h : s.inHandler <;> simp

/-- Everything one enabled `Seq` step can be (10_state R22, 43_tachometer R176). -/
theorem seqStep_cases (s : State) :
    (∃ e rest, s.todo = e :: rest ∧ seqStep s = emit e { s with todo := rest }) ∨
    (s.todo = [] ∧ s.strActive = true ∧ seqStep s = stringStep s) ∨
    (s.todo = [] ∧ s.strActive = false ∧ tornReadLeft s = true ∧ seqStep s = tornReadStep s) ∨
    (s.todo = [] ∧ s.strActive = false ∧ tornReadLeft s = false ∧ seqStep s = completeStep s) := by
  unfold seqStep
  cases hT : s.todo with
  | cons e rest => exact .inl ⟨e, rest, rfl, rfl⟩
  | nil =>
    cases hA : s.strActive with
    | true => exact .inr (.inl ⟨rfl, rfl, rfl⟩)
    | false =>
      cases hR : tornReadLeft s with
      | true => exact .inr (.inr (.inl ⟨rfl, rfl, rfl, by simp⟩))
      | false => exact .inr (.inr (.inr ⟨rfl, rfl, rfl, by simp⟩))

/-- What a request loads: an event list, a string, the illegal-operation record, or the start of a speed read. -/
inductive RequestLoad : (State → State) → Prop where
  | events (f : Nat → List Event) : RequestLoad fun s => loadTodo (f s.initPostSwitchDelayMs) s
  | string (a : Word) : RequestLoad (loadString a)
  | illegal : RequestLoad loadIllegal
  | speedRead : RequestLoad loadSpeedRead

/-- The instruction of a request word is an `Accept` step of one of the four kinds (10_state R22). -/
theorem exec_decodeRequest_eq (w : ReqWord) : ∃ op arg, ∃ load : State → State,
    RequestLoad load ∧ ∀ s, exec (decodeRequest w) s = acceptStep op arg load s := by
  unfold decodeRequest
  split
  all_goals (try split)
  all_goals first
    | exact ⟨_, _, _, .events fun _ => _, fun _ => rfl⟩
    | exact ⟨_, _, _, .events initEvents, fun _ => rfl⟩
    | exact ⟨_, _, _, .string _, fun _ => rfl⟩
    | exact ⟨_, _, _, .illegal, fun _ => rfl⟩
    | exact ⟨_, _, _, .speedRead, fun _ => rfl⟩

/-- All a request's load can change, beside what is latched (10_state R22, 44_control R184). -/
theorem RequestLoad.effect {load : State → State} (h : RequestLoad load) (op : Nibble) (arg : Word) (s : State) :
    ∃ es act ptr st pos, load (latchRequest op arg s) = { s with
        busy := true, curOp := op, curArg := arg, todo := es, strActive := act, strPtr := ptr, status := st,
        readPos := pos } ∧ (st = s.status ∨ st = s.status ||| 2) := by
  cases h with
  | events f => exact ⟨f s.initPostSwitchDelayMs, false, s.strPtr, s.status, s.readPos, rfl, .inl rfl⟩
  | string a =>
    unfold loadString
    split
    · exact ⟨[], false, s.strPtr, s.status ||| 2, s.readPos, rfl, .inr rfl⟩
    · exact ⟨[], true, a, s.status, s.readPos, rfl, .inl rfl⟩
  | illegal => exact ⟨[], false, s.strPtr, s.status ||| 2, s.readPos, rfl, .inr rfl⟩
  | speedRead => exact ⟨[], false, s.strPtr, s.status, 0, rfl, .inl rfl⟩

/-- One iteration of the string loop (42_lcd R141). -/
theorem stringStep_cases (s : State) :
    (memRead s.strmem s.strPtr = 0 ∧ stringStep s = { s with strPtr := s.strPtr + 1, strActive := false }) ∨
    (memRead s.strmem s.strPtr ≠ 0 ∧ stringStep s = { s with
      strPtr := s.strPtr + 1, todo := dataEvents (memRead s.strmem s.strPtr) }) := by
  unfold stringStep
  split
  · exact .inl ⟨‹_›, rfl⟩
  · exact .inr ⟨‹_›, rfl⟩

/-- Every meaning answers a next state: nothing stops the block (60_exceptions R190). -/
theorem exec_next (i : Instr) (s : State) : ∃ t, exec i s = .next t := by
  cases i
  case accept w =>
    simp only [exec, execAccept]
    split <;> exact ⟨_, rfl⟩
  all_goals exact ⟨_, rfl⟩

/-! Runs of events. -/

theorem emitAll_append (xs ys : List Event) (s : State) :
    emitAll (xs ++ ys) s = emitAll ys (emitAll xs s) := by
  induction xs generalizing s with
  | nil => rfl
  | cons x xs ih => exact ih (emit x s)

@[simp] theorem emitAll_out (es : List Event) (s : State) : (emitAll es s).out = s.out ++ es := by
  induction es generalizing s with
  | nil => simp [emitAll]
  | cons e es ih => simp [emitAll, ih]

/-- The inhibit level a list of events leaves, from level `c`. -/
def critAfter (c : Bool) : List Event → Bool
  | [] => c
  | .critEnter :: es => critAfter true es
  | .critExit :: es => critAfter false es
  | _ :: es => critAfter c es

/-- Whether the chip select is configured after a list of events, from `c`. -/
def cfgAfter (c : Bool) : List Event → Bool
  | [] => c
  | .csInit :: es => cfgAfter true es
  | _ :: es => cfgAfter c es

/-- What a micro-sequence does to the state, said once: the trace, the inhibit bit and the chip-select record. -/
theorem emitAll_eq (es : List Event) (s : State) :
    emitAll es s = { s with
      out := s.out ++ es, lcdCrit := critAfter s.lcdCrit es, csConfigured := cfgAfter s.csConfigured es } := by
  induction es generalizing s with
  | nil => simp [emitAll, critAfter, cfgAfter]
  | cons e es ih =>
    rw [emitAll, ih]
    cases e <;> simp [emit, eventEffect, critAfter, cfgAfter]

theorem critAfter_of_level {c d : Bool} {es : List Event} (h : critLevel c es = some d) : critAfter c es = d := by
  induction es generalizing c with
  | nil => simpa [critLevel, critAfter] using h
  | cons e es ih => cases e <;> cases c <;> simp_all [critLevel, critAfter]

theorem cfgAfter_iff (c : Bool) (es : List Event) : cfgAfter c es = true ↔ c = true ∨ Event.csInit ∈ es := by
  induction es generalizing c with
  | nil => simp [cfgAfter]
  | cons e es ih => cases e <;> simp [cfgAfter, ih]

theorem critLevel_append (c : Bool) (xs ys : List Event) :
    critLevel c (xs ++ ys) = (critLevel c xs).bind fun d => critLevel d ys := by
  induction xs generalizing c with
  | nil => rfl
  | cons x xs ih => cases x <;> cases c <;> simp [critLevel, ih]

theorem runInPlace_run (es : List Event) (s : State) (h : s.inHandler = false) :
    runInPlace es s = .next { s with
      out := s.out ++ es, lcdCrit := critAfter s.lcdCrit es, csConfigured := cfgAfter s.csConfigured es } := by
  simp only [runInPlace, h, emitAll_eq]
  rfl

/-! Fetching. -/

theorem step_of_probe_ok (s : State) (b : Byte) (bs : List Byte) (i : Instr) (hp : s.probe = b :: bs)
    (hd : decodeBytes (b :: bs) = .ok i) : step s = exec i { s with probe := [] } := by
  simp [step, fetch, hp, hd]

theorem step_of_choice (s : State) (hp : s.probe = []) :
    step s = (match instrOfChoice (nextChoice s).1 (nextChoice s).2 with
      | (none, t) => .next t
      | (some i, t) => exec i t) := by
  unfold step fetch
  rw [hp]
  dsimp only
  rcases instrOfChoice (nextChoice s).1 (nextChoice s).2 with ⟨_ | i, t⟩ <;> rfl

/-- Where a table word is placed (log 6). -/
theorem placeTableWord_cases (s : State) (nbits w : Nat) :
    (byteCount nbits = 5 ∧ w < 2 ^ 36 ∧ placeTableWord s nbits w = placeRequest (BitVec.ofNat 36 w) s) ∨
    (¬(byteCount nbits = 5 ∧ w < 2 ^ 36) ∧
      placeTableWord s nbits w = placeProbe (natToBytes (byteCount nbits) w) s) := by
  by_cases h : byteCount nbits = 5 ∧ w < 2 ^ 36
  · exact .inl ⟨h.1, h.2, if_pos h⟩
  · exact .inr ⟨h, if_neg h⟩

/-! The string space. -/

theorem wfFrom_weaken {lo hi : Nat} {m : Memory} (h : Memory.wfFrom hi m = true) (hl : lo ≤ hi) :
    Memory.wfFrom lo m = true := by
  cases m with
  | nil => rfl
  | cons c m =>
    simp only [Memory.wfFrom, Bool.and_eq_true, decide_eq_true_eq] at h ⊢
    exact ⟨⟨hl.trans h.1.1, h.1.2⟩, h.2⟩

theorem wfFrom_store (m : Memory) (lo a : Nat) (b : Byte) (h : Memory.wfFrom lo m = true) (hlo : lo ≤ a)
    (ha : a < 2 ^ 32) : Memory.wfFrom lo (Memory.store m a b) = true := by
  induction m generalizing lo with
  | nil => simp [Memory.store, Memory.wfFrom]; omega
  | cons c m ih =>
    obtain ⟨x, y⟩ := c
    simp only [Memory.wfFrom, Bool.and_eq_true, decide_eq_true_eq] at h
    obtain ⟨⟨h1, h2⟩, h3⟩ := h
    unfold Memory.store
    split
    · rename_i hlt
      simp only [Memory.wfFrom, Bool.and_eq_true, decide_eq_true_eq]
      exact ⟨⟨hlo, ha⟩, ⟨⟨hlt, h2⟩, h3⟩⟩
    · split
      · rename_i heq
        subst heq
        simp only [Memory.wfFrom, Bool.and_eq_true, decide_eq_true_eq]
        exact ⟨⟨hlo, ha⟩, h3⟩
      · simp only [Memory.wfFrom, Bool.and_eq_true, decide_eq_true_eq]
        exact ⟨⟨h1, h2⟩, ih (x + 1) h3 (by omega)⟩

/-- The one writing operation keeps the canonical form. -/
theorem wf_store (m : Memory) (a : Word) (b : Byte) (h : Memory.wf m = true) :
    Memory.wf (Memory.store m a.toNat b) = true :=
  wfFrom_store m 0 a.toNat b h (Nat.zero_le _) a.isLt

theorem wf_reset : Memory.wf State.reset.strmem = true := rfl

theorem lookup_store_same (m : Memory) (a : Nat) (b : Byte) : Memory.lookup (Memory.store m a b) a = some b := by
  induction m with
  | nil => simp [Memory.store, Memory.lookup]
  | cons c m ih =>
    obtain ⟨x, y⟩ := c
    unfold Memory.store
    split
    · simp [Memory.lookup]
    · split
      · simp [Memory.lookup]
      · rename_i h1 h2
        simp [Memory.lookup, ih, Ne.symm h2]

theorem lookup_store_other (m : Memory) (a a' : Nat) (b : Byte) (h : a' ≠ a) :
    Memory.lookup (Memory.store m a b) a' = Memory.lookup m a' := by
  induction m with
  | nil => simp [Memory.store, Memory.lookup, Ne.symm h]
  | cons c m ih =>
    obtain ⟨x, y⟩ := c
    unfold Memory.store
    split
    · simp [Memory.lookup, Ne.symm h]
    · split
      · rename_i h1 h2
        subst h2
        simp [Memory.lookup, Ne.symm h]
      · by_cases hx : x = a' <;> simp [Memory.lookup, ih, hx]

theorem memRead_listed (m : Memory) (a : Word) (b : Byte) (h : Memory.lookup m a.toNat = some b) :
    memRead m a = b := by simp [memRead, h]

/-! What the display takes from a trace (70_reset R225, log 26). -/

theorem displayLatches_of_pulseWidthMet {b : BusTiming} (h : b.pulseWidthMet = true) (es : List Event) :
    displayLatches b es = some (receiverView es) := if_pos h

theorem displayReads_of_pulseWidthMet {b : BusTiming} (h : b.pulseWidthMet = true) (es : List Event) :
    displayReads b es = some (joinNibbles (receiverView es)) := by
  rw [displayReads, displayLatches_of_pulseWidthMet h]; rfl

theorem displayLatches_cases {b : BusTiming} {es : List Event} {l : List (Bool × Nibble)}
    (h : displayLatches b es = some l) : b.pulseWidthMet = true ∧ l = receiverView es := by
  simp only [displayLatches] at h
  split at h
  · exact ⟨‹_›, (Option.some.inj h).symm⟩
  · cases h

end Sys2Proof.Machine
end

