-- ==== Sys2Proof/Laws/PerInstr.lean ====
section
/-! SUPPORT. Facts about every instruction as syntax, one lemma per constructor. TableBits: the word of an instruction lies in its
row of spec/opcode_table.json (`word & mask = match`, the row's own numbers), and the rows of format MICRO and STEP have no word. -/

namespace Sys2Proof.Laws.TableBits

/-- `match` and `mask` of an instruction's row, copied from spec/opcode_table.json; `none` where the row has none. -/
def rowBits : Instr → Option (Nat × Nat)
  | .lcdInit _ => some (0x000000000, 0xF00000000)
  | .lcdClear _ => some (0x100000000, 0xF00000000)
  | .lcdCommand _ _ => some (0x200000000, 0xF00000000)
  | .lcdData _ _ => some (0x300000000, 0xF00000000)
  | .lcdOutString _ => some (0x400000000, 0xF00000000)
  | .lcdOutUDec _ => some (0x500000000, 0xF00000000)
  | .lcdOutUHex _ => some (0x600000000, 0xF00000000)
  | .lcdOutUFix _ => some (0x700000000, 0xF00000000)
  | .tachInit _ => some (0x800000000, 0xF00000000)
  | .tachGetInterval _ => some (0x900000000, 0xF00000000)
  | .reservedA _ => some (0xA00000000, 0xF00000000)
  | .reservedB _ => some (0xB00000000, 0xF00000000)
  | .reservedC _ => some (0xC00000000, 0xF00000000)
  | .reservedD _ => some (0xD00000000, 0xF00000000)
  | .reservedE _ => some (0xE00000000, 0xF00000000)
  | .reservedF _ => some (0xF00000000, 0xF00000000)
  | .lcdHome _ => some (0x200000002, 0xF000000FF)
  | .frameIdleCmd _ => some (0x00, 0x0F)
  | .frameStrobeCmd _ => some (0x02, 0x0F)
  | .frameIdleData _ => some (0x01, 0x0F)
  | .frameStrobeData _ => some (0x03, 0x0F)
  | .frameGeneral _ _ _ _ _ => some (0x00, 0x00)
  | .cmdClear => some (0x01, 0xFF)
  | .cmdHome => some (0x02, 0xFF)
  | .cmdEntryMode => some (0x06, 0xFF)
  | .cmdDisplayOn => some (0x0F, 0xFF)
  | .cmdFunctionSet => some (0x28, 0xFF)
  | .nibReset8 => some (0x30, 0xFF)
  | .nibSet4 => some (0x20, 0xFF)
  | .nibbleWrite _ _ => none
  | .byteXfer _ _ => none
  | .irqAck => none
  | .irqBody => none
  | .tick => none
  | .edge => none
  | .reset => none
  | .accept _ => none
  | .seq => none

/-- A word lies in a row of the given bits. -/
def inRow (w : TableWord) (r : Nat × Nat) : Prop :=
  match w with
  | .request q => q &&& BitVec.ofNat 36 r.2 = BitVec.ofNat 36 r.1
  | .frame f => f &&& BitVec.ofNat 8 r.2 = BitVec.ofNat 8 r.1
  | .code c => c &&& BitVec.ofNat 8 r.2 = BitVec.ofNat 8 r.1

/-- The statement of the family. -/
def Statement (i : Instr) : Prop :=
  match encode i, rowBits i with
  | some w, some r => inRow w r
  | none, none => True
  | _, _ => False

theorem request_masked (op : Nibble) (arg : Word) : requestWord op arg &&& 0xF00000000#36 = op ++ 0#32 := by
  rw [show (0xF00000000#36) = (0xF#4 ++ 0#32) from rfl, requestWord, BitVec.and_append]
  congr 1
  · exact BitVec.and_allOnes
  · exact BitVec.and_zero

theorem home_masked (hi : BitVec 24) : requestWord 0x2 (byteArg hi 0x02) &&& 0xF000000FF#36 = 0x200000002#36 := by
  rw [show (0xF000000FF#36) = (0xF#4 ++ (0#24 ++ 0xFF#8)) from rfl, requestWord, byteArg, BitVec.and_append, BitVec.and_append,
    BitVec.and_zero]
  rfl

theorem frame_masked (d : Nibble) (en rs : Bool) :
    frameByte d false false en rs &&& 0x0F#8 = frameByte 0 false false en rs := by
  revert d en rs
  decide

theorem lcdInit (arg : Word) : Statement (.lcdInit arg) := request_masked 0x0 arg
theorem lcdClear (arg : Word) : Statement (.lcdClear arg) := request_masked 0x1 arg
theorem lcdCommand (hi : BitVec 24) (b : Byte) : Statement (.lcdCommand hi b) := request_masked 0x2 (byteArg hi b)
theorem lcdData (hi : BitVec 24) (b : Byte) : Statement (.lcdData hi b) := request_masked 0x3 (byteArg hi b)
theorem lcdOutString (arg : Word) : Statement (.lcdOutString arg) := request_masked 0x4 arg
theorem lcdOutUDec (arg : Word) : Statement (.lcdOutUDec arg) := request_masked 0x5 arg
theorem lcdOutUHex (arg : Word) : Statement (.lcdOutUHex arg) := request_masked 0x6 arg
theorem lcdOutUFix (arg : Word) : Statement (.lcdOutUFix arg) := request_masked 0x7 arg
theorem tachInit (arg : Word) : Statement (.tachInit arg) := request_masked 0x8 arg
theorem tachGetInterval (arg : Word) : Statement (.tachGetInterval arg) := request_masked 0x9 arg
theorem reservedA (arg : Word) : Statement (.reservedA arg) := request_masked 0xa arg
theorem reservedB (arg : Word) : Statement (.reservedB arg) := request_masked 0xb arg
theorem reservedC (arg : Word) : Statement (.reservedC arg) := request_masked 0xc arg
theorem reservedD (arg : Word) : Statement (.reservedD arg) := request_masked 0xd arg
theorem reservedE (arg : Word) : Statement (.reservedE arg) := request_masked 0xe arg
theorem reservedF (arg : Word) : Statement (.reservedF arg) := request_masked 0xf arg
theorem lcdHome (hi : BitVec 24) : Statement (.lcdHome hi) := home_masked hi
theorem frameIdleCmd (d : Nibble) : Statement (.frameIdleCmd d) := frame_masked d false false
theorem frameStrobeCmd (d : Nibble) : Statement (.frameStrobeCmd d) := frame_masked d true false
theorem frameIdleData (d : Nibble) : Statement (.frameIdleData d) := frame_masked d false true
theorem frameStrobeData (d : Nibble) : Statement (.frameStrobeData d) := frame_masked d true true
theorem frameGeneral (d : Nibble) (k3 k2 en rs : Bool) : Statement (.frameGeneral d k3 k2 en rs) := by simp [Statement, encode, rowBits, inRow]
theorem cmdClear : Statement .cmdClear := rfl
theorem cmdHome : Statement .cmdHome := rfl
theorem cmdEntryMode : Statement .cmdEntryMode := rfl
theorem cmdDisplayOn : Statement .cmdDisplayOn := rfl
theorem cmdFunctionSet : Statement .cmdFunctionSet := rfl
theorem nibReset8 : Statement .nibReset8 := rfl
theorem nibSet4 : Statement .nibSet4 := rfl
theorem nibbleWrite (v : Byte) (c : Nibble) : Statement (.nibbleWrite v c) := trivial
theorem byteXfer (b : Byte) (c : Nibble) : Statement (.byteXfer b c) := trivial
theorem irqAck : Statement .irqAck := trivial
theorem irqBody : Statement .irqBody := trivial
theorem tick : Statement .tick := trivial
theorem edge : Statement .edge := trivial
theorem reset : Statement .reset := trivial
theorem accept (req : ReqWord) : Statement (.accept req) := trivial
theorem seq : Statement .seq := trivial

end Sys2Proof.Laws.TableBits
end

