-- ==== Sys2Proof/Tests/Slice0.lean ====
section
/-! SUPPORT. Tests: ill-formed terms refused, words written out from the spec's encodings decoded, one step per
instruction against 95_test_vectors, and for every statement with hypotheses a state that meets them. -/

namespace Sys2Proof.Tests

open Sys2Proof Sys2Proof.Machine Sys2Proof.Claims

/-! ## Well-formedness -/

theorem test_wellFormed_refuses_home_as_command : (Instr.lcdCommand 0 0x02).wellFormed = false := by decide
theorem test_wellFormed_refuses_general_idle : (Instr.frameGeneral 0x3 false false false false).wellFormed = false := by
  decide
theorem test_wellFormed_refuses_general_strobe : (Instr.frameGeneral 0x3 false false true true).wellFormed = false := by
  decide
theorem test_wellFormed_accepts :
    (Instr.lcdCommand 0 0x03).wellFormed = true ∧ (Instr.frameGeneral 0x3 false true false false).wellFormed = true := by
  decide

/-! ## Decoding: words written out from 30_encoding R80 to R94 -/

/-- R80, R81, R82: `op` in bits 35:32, then `arg`, the byte operand in its bits 7:0. -/
theorem test_decode_requests :
    decode (.request (0b0000#4 ++ 0x00000000#32)) = .ok (.lcdInit 0) ∧
    decode (.request (0b0001#4 ++ 0xFFFFFFFF#32)) = .ok (.lcdClear 0xFFFFFFFF) ∧
    decode (.request (0b0010#4 ++ 0xDEADBE#24 ++ 0b00101000#8)) = .ok (.lcdCommand 0xDEADBE 0x28) ∧
    decode (.request (0b0011#4 ++ 0x800001#24 ++ 0b01000001#8)) = .ok (.lcdData 0x800001 0x41) ∧
    decode (.request (0b0100#4 ++ 0x00001000#32)) = .ok (.lcdOutString 0x1000) ∧
    decode (.request (0b0101#4 ++ 0x3B9ACA00#32)) = .ok (.lcdOutUDec 1000000000) ∧
    decode (.request (0b0110#4 ++ 0x00ABCDEF#32)) = .ok (.lcdOutUHex 0xABCDEF) ∧
    decode (.request (0b0111#4 ++ 0x0000270F#32)) = .ok (.lcdOutUFix 9999) ∧
    decode (.request (0b1000#4 ++ 0x00000000#32)) = .ok (.tachInit 0) ∧
    decode (.request (0b1001#4 ++ 0x00000001#32)) = .ok (.tachGetInterval 1) := by decide

/-- R83, R94: the reserved codes, and the alias `LCD_HOME`. -/
theorem test_decode_reserved_and_home :
    decode (.request (0b1010#4 ++ 0x00000000#32)) = .ok (.reservedA 0) ∧
    decode (.request (0b1011#4 ++ 0x00000001#32)) = .ok (.reservedB 1) ∧
    decode (.request (0b1100#4 ++ 0x80000000#32)) = .ok (.reservedC 0x80000000) ∧
    decode (.request (0b1101#4 ++ 0x00000002#32)) = .ok (.reservedD 2) ∧
    decode (.request (0b1110#4 ++ 0x00000003#32)) = .ok (.reservedE 3) ∧
    decode (.request (0b1111#4 ++ 0x12345678#32)) = .ok (.reservedF 0x12345678) ∧
    decode (.request (0b0010#4 ++ 0x000000#24 ++ 0b00000010#8)) = .ok (.lcdHome 0) ∧
    decode (.request (0b0010#4 ++ 0xFFFFFF#24 ++ 0b00000010#8)) = .ok (.lcdHome 0xFFFFFF) := by decide

/-- R85, R87: data nibble 7:4, control bits 3 and 2, enable 1, register-select 0. -/
theorem test_decode_frames :
    decode (.frame 0b0011_0000) = .ok (.frameIdleCmd 0x3) ∧
    decode (.frame 0b0011_0010) = .ok (.frameStrobeCmd 0x3) ∧
    decode (.frame 0b0100_0001) = .ok (.frameIdleData 0x4) ∧
    decode (.frame 0b0100_0011) = .ok (.frameStrobeData 0x4) ∧
    decode (.frame 0b1010_1101) = .ok (.frameGeneral 0xA true true false true) ∧
    decode (.frame 0b1010_0110) = .ok (.frameGeneral 0xA false true true false) := by decide

/-- R88, R89: the seven display codes; no other byte is one. -/
theorem test_decode_codes :
    decode (.code 0b0000_0001) = .ok .cmdClear ∧ decode (.code 0b0000_0010) = .ok .cmdHome ∧
    decode (.code 0b0000_0110) = .ok .cmdEntryMode ∧ decode (.code 0b0000_1111) = .ok .cmdDisplayOn ∧
    decode (.code 0b0010_1000) = .ok .cmdFunctionSet ∧ decode (.code 0b0011_0000) = .ok .nibReset8 ∧
    decode (.code 0b0010_0000) = .ok .nibSet4 ∧ decode (.code 0x80) = .error (.unknownCode 0x80) := by decide

/-- The table's numbering: the first byte is the least significant. -/
theorem test_decodeTableWord :
    decodeTableWord 36 0x2DEADBE28 = some (.lcdCommand 0xDEADBE 0x28) ∧ decodeTableWord 8 0x06 = some .cmdEntryMode ∧
    decodeTableWord 8 0x41 = some (.frameIdleData 4) ∧ decodeTableWord 8 0xAD = some (.frameGeneral 0xA true true false true) ∧
    decodeTableWord 36 0x1000000000 = none ∧ decodeTableWord 16 0x0000 = none := by decide

theorem test_decode_rejects_by_name :
    decodeBytes [] = .error (.wrongWidth 0) ∧ decodeBytes [0, 0] = .error (.wrongWidth 2) ∧
    decodeBytes [0, 0, 0, 0, 0x10] = .error (.bitsAboveRequest 0x1000000000) ∧
    decodeBytes [0x28, 0xBE, 0xAD, 0xDE, 0x02] = .ok (.lcdCommand 0xDEADBE 0x28) := by decide

/-! ## One step: 95_test_vectors -/

/-- The state a step gives; `State.reset` where it gives none. -/
def after (r : Result) : State :=
  match r with
  | .next t => t
  | .fault _ => State.reset
  | .refused _ => State.reset

/-- The frame bytes of a trace. -/
def frames (es : List Event) : List Byte :=
  es.filterMap fun e => match e with
    | .tx b => some b
    | _ => none

/-- The characters a trace delivers. -/
def characters (es : List Event) : List Byte := (joinNibbles (receiverView es)).map (·.2)

/-- The events a request loads. -/
def loads (i : Instr) : List Event := (after (exec i State.reset)).todo

/-- The reset state with the given captures, the handler running. -/
def inHandlerWith (p v : Half) (n : Fin 3) : State :=
  { State.reset with currentVal := p, cap := v, ncap := n, inHandler := true }

/-- P1. -/
theorem test_lcdInit_loads :
    loads (.lcdInit 0) = initTrace 0 ∧ (loads (.lcdInit 0)).length = 53 ∧ minDelayMs (loads (.lcdInit 0)) = 32 := by decide
theorem test_lcdInit_latches_argument : (after (exec (.lcdInit 0x12345678) State.reset)).curArg = 0x12345678 := by decide
/-- V2. -/
theorem test_lcdClear_frames :
    frames (loads (.lcdClear 0xFFFFFFFF)) = [0x00, 0x02, 0x00, 0x10, 0x12, 0x10] ∧
    (loads (.lcdClear 0)).getLast? = some (.delay 2) := by decide
/-- V2. -/
theorem test_lcdCommand_frames :
    frames (loads (.lcdCommand 0xDEADBE 0x28)) = [0x20, 0x22, 0x20, 0x80, 0x82, 0x80] ∧
    (after (exec (.lcdCommand 0xDEADBE 0x28) State.reset)).curArg = 0xDEADBE28 := by decide
/-- V2: the boundary of the slow delay. -/
theorem test_lcdCommand_delay :
    (loads (.lcdCommand 0 0x03)).getLast? = some (.delay 2) ∧
    (loads (.lcdCommand 0 0x04)).getLast? = some (.delay 1) := by decide
/-- V2. -/
theorem test_lcdHome_frames :
    frames (loads (.lcdHome 0)) = [0x00, 0x02, 0x00, 0x20, 0x22, 0x20] ∧
    (loads (.lcdHome 0)).getLast? = some (.delay 2) ∧ (after (exec (.lcdHome 0) State.reset)).curOp = 2 := by decide
/-- V3. -/
theorem test_lcdData_frames :
    frames (loads (.lcdData 0 0x2E)) = [0x21, 0x23, 0x21, 0xE1, 0xE3, 0xE1] ∧
    (loads (.lcdData 0 0x01)).getLast? = some (.delay 1) := by decide
/-- V4. -/
theorem test_lcdOutUDec_characters :
    characters (loads (.lcdOutUDec 4294967295)) = [0x34, 0x32, 0x39, 0x34, 0x39, 0x36, 0x37, 0x32, 0x39, 0x35] ∧
    characters (loads (.lcdOutUDec 0)) = [0x30] := by decide
/-- V5. -/
theorem test_lcdOutUHex_characters :
    characters (loads (.lcdOutUHex 0xABCDEF)) = [0x41, 0x42, 0x43, 0x44, 0x45, 0x46] ∧
    characters (loads (.lcdOutUHex 0x10)) = [0x31, 0x30] := by decide
/-- S1. -/
theorem test_lcdOutUFix_characters :
    characters (loads (.lcdOutUFix 123)) = [0x31, 0x32, 0x2E, 0x33] ∧
    characters (loads (.lcdOutUFix 9999)) = [0x39, 0x39, 0x39, 0x2E, 0x39] ∧
    characters (loads (.lcdOutUFix 10000)) = [0x2A, 0x2E, 0x2A, 0x2A, 0x2A] := by decide
/-- V7: the null string. -/
theorem test_lcdOutString_null :
    statusIllegalOp (after (exec (.lcdOutString 0) State.reset)) = true ∧
    (after (exec (.lcdOutString 0) State.reset)).strActive = false := by decide
/-- P7: the start of the loop. -/
theorem test_lcdOutString_starts :
    (after (exec (.lcdOutString 0x1000) State.reset)).strPtr = 0x1000 ∧
    (after (exec (.lcdOutString 0x1000) State.reset)).strActive = true := by decide

/-- V11. -/
theorem test_reserved_sets_illegal_op :
    (after (exec (.reservedA 0) State.reset)).status = 0b10 ∧ (after (exec (.reservedB 0) State.reset)).status = 0b10 ∧
    (after (exec (.reservedC 0) State.reset)).status = 0b10 ∧ (after (exec (.reservedD 0) State.reset)).status = 0b10 ∧
    (after (exec (.reservedE 0) State.reset)).status = 0b10 ∧
    (after (exec (.reservedF 0x12345678) State.reset)).status = 0b10 := by decide
/-- V11: `busy` is set for the completing step. -/
theorem test_accept_reserved :
    (after (exec (.accept 0xF12345678) State.reset)).busy = true ∧
    (after (exec (.accept 0xF12345678) State.reset)).status = 0b10 := by decide
theorem test_accept_waits_for_busy :
    (after (exec (.accept 0x300000041) { State.reset with busy := true })).todo = [] := by decide

/-- V1. -/
theorem test_nibbleWrite_frames :
    frames (after (exec (.nibbleWrite 0xAB 0xF) State.reset)).out = [0xAD, 0xAF, 0xAD] ∧
    frames (after (exec (.nibbleWrite 0x3F 0x2) State.reset)).out = [0x30, 0x32, 0x30] := by decide
/-- P7, events 1 to 8. -/
theorem test_byteXfer_events :
    (after (exec (.byteXfer 0x48 0x1) State.reset)).out =
      [.critEnter, .tx 0x41, .tx 0x43, .tx 0x41, .tx 0x81, .tx 0x83, .tx 0x81, .critExit] := by decide
/-- R87. -/
theorem test_frame_rows_transmit :
    (after (exec (.frameIdleCmd 3) State.reset)).out = [.tx 0x30] ∧
    (after (exec (.frameStrobeCmd 3) State.reset)).out = [.tx 0x32] ∧
    (after (exec (.frameIdleData 4) State.reset)).out = [.tx 0x41] ∧
    (after (exec (.frameStrobeData 4) State.reset)).out = [.tx 0x43] ∧
    (after (exec (.frameGeneral 0xA true true true true) State.reset)).out = [.tx 0xAF] := by decide
/-- V1, V2. -/
theorem test_codes_are_sent :
    frames (after (exec .cmdClear State.reset)).out = [0x00, 0x02, 0x00, 0x10, 0x12, 0x10] ∧
    frames (after (exec .cmdHome State.reset)).out = [0x00, 0x02, 0x00, 0x20, 0x22, 0x20] ∧
    frames (after (exec .cmdEntryMode State.reset)).out = [0x00, 0x02, 0x00, 0x60, 0x62, 0x60] ∧
    frames (after (exec .cmdDisplayOn State.reset)).out = [0x00, 0x02, 0x00, 0xF0, 0xF2, 0xF0] ∧
    frames (after (exec .cmdFunctionSet State.reset)).out = [0x20, 0x22, 0x20, 0x80, 0x82, 0x80] ∧
    frames (after (exec .nibReset8 State.reset)).out = [0x30, 0x32, 0x30] ∧
    frames (after (exec .nibSet4 State.reset)).out = [0x20, 0x22, 0x20] := by decide

/-- P3, step 1: the completing step of `TACH_INIT`. -/
theorem test_tachInit_completes :
    (after (exec .seq (after (exec (.tachInit 0) State.reset)))).counter = 65535 ∧
    (after (exec .seq (after (exec (.tachInit 0) State.reset)))).tstate = .configured ∧
    (after (exec .seq (after (exec (.tachInit 0) State.reset)))).gie = true := by decide
/-- P3, step 11. -/
theorem test_tachGetInterval_returns :
    (after (exec .seq (after (exec (.tachGetInterval 0) { State.reset with speed := 4000 })))).resp = 4000 := by decide
/-- P8, step 4. -/
theorem test_torn_byte_read :
    (after (exec .seq { State.reset with
      busy := true, curOp := 9, speedReadTearing := true, readPos := 1, resp := 0xFF, speed := 0x100 })).resp =
      511 := by decide
/-- R28: the side effect of `CritEnter`. -/
theorem test_seq_enters_critical_section :
    (after (exec .seq { State.reset with busy := true, todo := [.critEnter, .tx 0x41] })).lcdCrit = true ∧
    (after (exec .seq { State.reset with busy := true, todo := [.critEnter, .tx 0x41] })).todo = [.tx 0x41] := by decide
/-- P7: the string loop reads 0x69 at 0x1001. -/
theorem test_seq_reads_string_byte :
    characters (after (exec .seq { State.reset with
      busy := true, curOp := 4, strActive := true, strPtr := 0x1001,
      strmem := [(0x1000, 0x48), (0x1001, 0x69), (0x1002, 0x00)] })).todo = [0x69] := by decide

/-- V10. -/
theorem test_tick_wraps :
    (after (exec .tick { State.reset with timerRun := true, counter := 0 })).counter = 0xFFFF ∧
    (after (exec .tick { State.reset with timerRun := true, counter := 1 })).counter = 0 := by decide
/-- V10: the overrun row, and the row with the timer stopped. -/
theorem test_edge_overruns :
    (after (exec .edge { State.reset with
      timerRun := true, capCfg := true, counter := 0x1234, pending := true, cap := 0x2000 })).cap = 0x1234 ∧
    (after (exec .edge State.reset)).pending = false := by decide
/-- V9. -/
theorem test_irqAck_gating :
    (after (exec .irqAck { State.reset with
      pending := true, capIe := true, vecEn := true, gie := true })).inHandler = true ∧
    (after (exec .irqAck { State.reset with
      pending := true, capIe := true, vecEn := true, gie := true, lcdCrit := true })).inHandler = false := by decide
/-- V8. -/
theorem test_irqBody_speed :
    (after (exec .irqBody (inHandlerWith 65535 0 2))).speed = 61 ∧
    (after (exec .irqBody (inHandlerWith 1000 993 2))).speed = 571428 ∧
    (after (exec .irqBody (inHandlerWith 100 65500 2))).interval = 0xFFFF0088 := by decide
/-- V8, S4: the degenerate bit is not set by the first run. -/
theorem test_irqBody_flags :
    statusDegenerate (after (exec .irqBody (inHandlerWith 500 500 2))) = true ∧
    statusDegenerate (after (exec .irqBody (inHandlerWith 0 65000 0))) = false ∧
    (after (exec .irqBody (inHandlerWith 0 65000 0))).interval = 4294902296 := by decide
/-- P6, step 4. -/
theorem test_reset_clears :
    (after (exec .reset { State.reset with status := 0b11, busy := true, out := [.tx 0x30], lcdMode := .ready })).status =
      0 ∧
    (after (exec .reset { State.reset with status := 0b11, busy := true, out := [.tx 0x30] })).out = [] := by decide

/-! ## Witnesses: for every statement with hypotheses, states and operands that meet them -/

/-- A sequencer at work. -/
def atWork : State := { State.reset with busy := true }

/-- The tachometer configured, its interrupt enabled. -/
def enabled : State :=
  { State.reset with timerRun := true, capCfg := true, capIe := true, vecEn := true, gie := true, tstate := .configured }

/-- The string "Hi" at 0x1000 (V7). -/
def hiMemory : Memory := [(0x1000, 0x48), (0x1001, 0x69), (0x1002, 0x00)]

/-- A string that wraps from the last address to address 0 (V7). -/
def wrapMemory : Memory := [(0x0, 0x00), (0xFFFFFFFF, 0x41)]

theorem witness_EncodedInstructionsDecodeBack :
    (Instr.lcdCommand 0xDEADBE 0x28).wellFormed = true ∧
    encode (.lcdCommand 0xDEADBE 0x28) = some (.request 0x2DEADBE28) := by decide
theorem witness_DecodedWordsEncodeBack : decode (.frame 0xAD) = .ok (.frameGeneral 0xA true true false true) := by
  decide
/-- Clause 1, and both ways into clause 2. -/
theorem witness_StepRunsTheRequestOnThePort :
    (∃ s : State, s.probe = [] ∧ s.agenda = [.accept] ∧ s.req = some 0x300000041 ∧ s.busy = false ∧
      s.inHandler = false) ∧
    (∃ s : State, s.probe = [] ∧ s.agenda = [.accept] ∧ s.req = some 0x300000041 ∧ s.busy = true) ∧
    (∃ s : State, s.probe = [] ∧ s.agenda = [.accept] ∧ s.req = some 0x300000041 ∧ s.inHandler = true) :=
  ⟨⟨{ State.reset with agenda := [.accept], req := some 0x300000041 }, rfl, rfl, rfl, rfl, rfl⟩,
   ⟨{ atWork with agenda := [.accept], req := some 0x300000041 }, rfl, rfl, rfl, rfl⟩,
   ⟨{ State.reset with agenda := [.accept], req := some 0x300000041, inHandler := true }, rfl, rfl, rfl, rfl⟩⟩
/-- Every move, the port empty and occupied. -/
theorem witness_StepRunsTheChosenAgent :
    (∀ c : Choice, ∃ s : State, s.probe = [] ∧ s.agenda = [c] ∧ s.req = none) ∧
    (∃ s : State, s.probe = [] ∧ s.agenda = [.present 0x100000000] ∧ s.req = some 0x300000041) :=
  ⟨fun c => ⟨{ State.reset with agenda := [c] }, rfl, rfl, rfl⟩,
   ⟨{ State.reset with agenda := [.present 0x100000000], req := some 0x300000041 }, rfl, rfl, rfl⟩⟩
theorem witness_StepDrawsAnyMove : State.reset.probe = [] ∧ State.reset.agenda = [] := ⟨rfl, rfl⟩
/-- An 8-bit word, and the request word with every bit set. -/
theorem witness_PlacedWordRunsNext :
    (decodeTableWord 8 0xAD = some (.frameGeneral 0xA true true false true) ∧ byteCount 8 = 1) ∧
    (decodeTableWord 36 0xFFFFFFFFF = some (.reservedF 0xFFFFFFFF) ∧ byteCount 36 = 5 ∧ 0xFFFFFFFFF < 2 ^ 36 ∧
      State.reset.busy = false ∧ State.reset.inHandler = false) := by decide
theorem witness_EveryStepHasANextState : State.reset.probe = [] := rfl
theorem witness_FrameRowsTransmitTheirByte : State.reset.inHandler = false := rfl
theorem witness_NibbleWriteEmitsThreeFrames : State.reset.inHandler = false := rfl
theorem witness_ByteXferEmitsTheFramedTransfer : State.reset.inHandler = false := rfl
theorem witness_DisplayCodesAreSent : State.reset.inHandler = false := rfl
/-- Each kind of head event, and both ways not to be enabled. -/
theorem witness_SeqEmitsTheHeadEvent :
    (∀ e ∈ [Event.csInit, .tx 0x41, .delay 1, .critEnter, .critExit], ∃ s : State, Working s ∧ s.todo = [e]) ∧
    State.reset.busy = false ∧ (inHandlerWith 0 0 0).inHandler = true :=
  ⟨fun e _ => ⟨{ atWork with todo := [e] }, ⟨rfl, rfl⟩, rfl⟩, rfl, rfl⟩
theorem witness_SequencerEmitsTheLoadedEvents : Working atWork ∧ critLevel atWork.lcdCrit atWork.todo = some false :=
  ⟨⟨rfl, rfl⟩, rfl⟩
theorem witness_AcceptLatchesTheRequest :
    (State.reset.busy = false ∧ State.reset.inHandler = false) ∧ atWork.busy = true ∧
    (inHandlerWith 0 0 0).inHandler = true := by decide
theorem witness_BusyHoldsEveryRequest : encode (.tachInit 0) = some (.request 0x800000000) ∧ atWork.busy = true := by
  decide
theorem witness_IgnoredArgumentBitsOnlyLatch : State.reset.busy = false ∧ State.reset.inHandler = false := ⟨rfl, rfl⟩
theorem witness_LcdInitRunsToReady : Idle State.reset := ⟨rfl, rfl, rfl⟩
/-- A bus whose transmission lasts exactly the display's minimum, and is the longest assumed. -/
def tightBus : BusTiming := ⟨450, 450, 450⟩
theorem test_pulse_width_bounds :
    tightBus.pulseWidthMet = true ∧ { tightBus with minPulse := 451 }.pulseWidthMet = false ∧
    { tightBus with longest := 449 }.pulseWidthMet = false := by decide
theorem witness_InitDeliversTwelveNibbles : Idle State.reset ∧ tightBus.pulseWidthMet = true := by
  exact ⟨⟨rfl, rfl, rfl⟩, rfl⟩
theorem witness_CommandRunsToDone : Idle State.reset := ⟨rfl, rfl, rfl⟩
theorem witness_DataRunsToDone : Idle State.reset := ⟨rfl, rfl, rfl⟩
theorem witness_ClearAndHomeRunToDone : Idle State.reset := ⟨rfl, rfl, rfl⟩
theorem witness_DecimalOutputRunsToDone : Idle State.reset := ⟨rfl, rfl, rfl⟩
theorem witness_HexOutputRunsToDone : Idle State.reset := ⟨rfl, rfl, rfl⟩
theorem witness_FixedOutputRunsToDone : Idle State.reset := ⟨rfl, rfl, rfl⟩
theorem witness_NullStringRaisesIllegalOp : Idle State.reset := ⟨rfl, rfl, rfl⟩
theorem witness_ReservedCodesRaiseIllegalOp : Idle State.reset := ⟨rfl, rfl, rfl⟩
theorem witness_TachInitConfigures : Idle State.reset := ⟨rfl, rfl, rfl⟩
theorem stringAt_hi : StringAt hiMemory 0x1000 [0x48, 0x69] := by
  refine ⟨by decide, ?_, by decide⟩
  intro k h
  match k, h with
  | 0, _ => rfl
  | 1, _ => rfl
theorem stringAt_empty : StringAt hiMemory 0x1002 [] := ⟨by decide, fun _ h => absurd h (Nat.not_lt_zero _), by decide⟩
theorem stringAt_wrap : StringAt wrapMemory 0xFFFFFFFF [0x41] := by
  refine ⟨by decide, ?_, by decide⟩
  intro k h
  match k, h with
  | 0, _ => rfl
/-- Two characters, none, and one that wraps to address 0. -/
theorem witness_StringOutputRunsToDone :
    (∃ s : State, Idle s ∧ s.lcdCrit = false ∧ StringAt s.strmem 0x1000 [0x48, 0x69]) ∧
    (∃ s : State, Idle s ∧ s.lcdCrit = false ∧ StringAt s.strmem 0x1002 []) ∧
    (∃ s : State, Idle s ∧ s.lcdCrit = false ∧ StringAt s.strmem 0xFFFFFFFF [0x41]) :=
  ⟨⟨{ State.reset with strmem := hiMemory }, ⟨rfl, rfl, rfl⟩, rfl, stringAt_hi⟩,
   ⟨{ State.reset with strmem := hiMemory }, ⟨rfl, rfl, rfl⟩, rfl, stringAt_empty⟩,
   ⟨{ State.reset with strmem := wrapMemory }, ⟨rfl, rfl, rfl⟩, rfl, stringAt_wrap⟩⟩
/-- A number, and the string "Hi". -/
theorem witness_ReceiverReadsTheText :
    Idle State.reset ∧ tightBus.pulseWidthMet = true ∧
      ∃ s : State, Idle s ∧ (0x1000 : Addr) ≠ 0 ∧ StringAt s.strmem 0x1000 [0x48, 0x69] :=
  ⟨⟨rfl, rfl, rfl⟩, rfl, { State.reset with strmem := hiMemory }, ⟨rfl, rfl, rfl⟩, by decide, stringAt_hi⟩
theorem witness_ReceiverSeesTheByte : tightBus.pulseWidthMet = true := rfl
/-- Both clauses. -/
theorem witness_StringLoopReadsOneByte :
    ∃ s t : State, (Working s ∧ s.todo = [] ∧ s.strActive = true ∧ memRead s.strmem s.strPtr ≠ 0) ∧
      (Working t ∧ t.todo = [] ∧ t.strActive = true ∧ memRead t.strmem t.strPtr = 0) :=
  ⟨{ atWork with strActive := true, strPtr := 0x1001, strmem := hiMemory },
   { atWork with strActive := true, strPtr := 0x1002, strmem := hiMemory },
   ⟨⟨rfl, rfl⟩, rfl, rfl, by decide⟩, ⟨⟨rfl, rfl⟩, rfl, rfl, by decide⟩⟩

/-- `n` listed bytes 0x55 from address `x` on. -/
def filled : Nat → Nat → Memory
  | 0, _ => []
  | n + 1, x => (x, 0x55) :: filled n (x + 1)

theorem lookup_filled (n x a : Nat) (h1 : x ≤ a) (h2 : a < x + n) : Memory.lookup (filled n x) a = some 0x55 := by
  induction n generalizing x with
  | zero => omega
  | succ n ih =>
    simp only [filled, Memory.lookup]
    split
    · rfl
    · exact ih (x + 1) (by omega) (by omega)

/-- A string space with no zero byte at all: the host's move next, the platform's with a byte that is no zero, and the
sequencer alone. -/
theorem witness_NonterminatedStringNeverCompletes :
    (∃ s t : State, HungOnString s ∧ (nextChoice s).1 = .accept ∧ s.req = some 0x300000041 ∧ step s = .next t) ∧
    (∃ s t : State, HungOnString s ∧ (nextChoice s).1 = .strWrite 0x1000 0x01 ∧ step s = .next t) ∧
    (∃ s : State, HungOnString s ∧ s.inHandler = false ∧ s.todo = [] ∧ s.lcdCrit = false) := by
  have h : ∀ n : Nat, n = 2 ^ 32 → ∀ a : Addr, memRead (filled n 0) a ≠ 0 := by
    intro n hn a
    have ha := addr_toNat_lt a
    rw [memRead_listed _ a 0x55 (lookup_filled n 0 a.toNat (Nat.zero_le _) (by omega))]
    decide
  obtain ⟨n, hn⟩ : ∃ n : Nat, n = 2 ^ 32 := ⟨_, rfl⟩
  exact ⟨⟨{ atWork with
      strActive := true, strmem := filled n 0, agenda := [.accept], req := some 0x300000041 }, _,
      ⟨rfl, rfl, rfl, h n hn⟩, rfl, rfl, rfl⟩,
    ⟨{ atWork with strActive := true, strmem := filled n 0, agenda := [.strWrite 0x1000 0x01] }, _,
      ⟨rfl, rfl, rfl, h n hn⟩, rfl, rfl⟩,
    ⟨{ atWork with strActive := true, strmem := filled n 0 }, ⟨rfl, rfl, rfl, h n hn⟩, rfl, rfl, rfl⟩⟩
theorem witness_GetIntervalReturnsTheSpeed : Idle State.reset ∧ State.reset.speedReadTearing = false :=
  ⟨⟨rfl, rfl, rfl⟩, rfl⟩
/-- The last byte, and the end. -/
theorem witness_TornReadTakesOneByteAStep :
    ∀ p ∈ [0, 3, 4], ∃ s : State, Working s ∧ s.todo = [] ∧ s.strActive = false ∧ s.curOp = 0x9 ∧
      s.speedReadTearing = true ∧ s.readPos = p :=
  fun p _ => ⟨{ atWork with curOp := 0x9, speedReadTearing := true, readPos := p },
    ⟨rfl, rfl⟩, rfl, rfl, rfl, rfl, rfl⟩
theorem witness_UninterruptedTornReadIsWhole :
    ∃ s : State, Idle s ∧ s.speedReadTearing = true :=
  ⟨{ State.reset with speedReadTearing := true }, ⟨rfl, rfl, rfl⟩, rfl⟩
theorem witness_TickCountsDown : State.reset.timerRun = false ∧ enabled.timerRun = true := ⟨rfl, rfl⟩
theorem witness_EdgeCaptures : (enabled.timerRun = true ∧ enabled.capCfg = true) ∧ State.reset.capCfg = false :=
  ⟨⟨rfl, rfl⟩, rfl⟩
/-- All six terms, and one missing. -/
theorem witness_IrqAckEntersTheHandler :
    ∃ s t : State, (s.pending = true ∧ s.capIe = true ∧ s.vecEn = true ∧ s.gie = true ∧ s.lcdCrit = false ∧
        s.inHandler = false) ∧
      ¬(t.pending = true ∧ t.capIe = true ∧ t.vecEn = true ∧ t.gie = true ∧ t.lcdCrit = false ∧ t.inHandler = false) :=
  ⟨{ enabled with pending := true }, { enabled with pending := true, lcdCrit := true }, by decide, by decide⟩
theorem witness_IrqBodyUpdatesTheRecord :
    (inHandlerWith 500 500 2).inHandler = true ∧ State.reset.inHandler = false := ⟨rfl, rfl⟩
/-- The least interval, and the equal captures. -/
theorem witness_SpeedIsFourMillionOverInterval :
    ((inHandlerWith 1 0 2).inHandler = true ∧ (inHandlerWith 1 0 2).cap < (inHandlerWith 1 0 2).currentVal) ∧
    ((inHandlerWith 0 0 2).inHandler = true ∧ (inHandlerWith 0 0 2).currentVal ≤ (inHandlerWith 0 0 2).cap) := by decide
theorem witness_FirstRunLeavesSpeedZero :
    ((inHandlerWith 0 65000 0).inHandler = true ∧ (inHandlerWith 0 65000 0).ncap = 0 ∧
      (inHandlerWith 0 65000 0).currentVal = 0) ∧
    ((inHandlerWith 65000 64000 1).inHandler = true ∧ (inHandlerWith 65000 64000 1).ncap ≠ 0) := by decide
theorem witness_EdgeInsideTheHandlerIsReadTwice :
    ∃ s : State, s.inHandler = true ∧ s.pending = false ∧ s.lcdCrit = false ∧ s.timerRun = true ∧ s.capCfg = true ∧ s.capIe = true ∧
      s.vecEn = true ∧ s.gie = true :=
  ⟨{ enabled with inHandler := true }, by decide⟩
theorem witness_EarlyEdgesCoalesce :
    enabled.inHandler = false ∧ enabled.lcdCrit = false ∧ enabled.timerRun = true ∧ enabled.capCfg = true ∧
    enabled.capIe = true ∧ enabled.vecEn = true ∧ enabled.gie = true := by decide
/-- The interrupt's own move, with everything but the critical section allowing it. -/
theorem witness_CriticalSectionHoldsTheHandler :
    ∃ s t : State, s.probe = [] ∧ s.lcdCrit = true ∧ s.inHandler = false ∧ s.pending = true ∧ step s = .next t :=
  ⟨{ enabled with pending := true, lcdCrit := true, agenda := [.irqAck] }, _, rfl, rfl, rfl, rfl, rfl⟩
theorem witness_HandlerSuspendsTheMainContext :
    mainContext (.lcdData 0 0x41) = true ∧ mainContext .seq = true ∧ (inHandlerWith 0 0 0).inHandler = true := by decide
/-- Each clause. -/
theorem witness_UnitsLeaveEachOtherAlone :
    (displayRow (.lcdData 0 0x41) = true ∧ ∃ t, exec (.lcdData 0 0x41) State.reset = .next t) ∧
    (atWork.curOp ≠ 0x8 ∧ atWork.curOp ≠ 0x9 ∧ ∃ t, exec .seq atWork = .next t) ∧
    ((∃ t, exec (.tachInit 0) State.reset = .next t) ∧ ∃ t, exec (.tachGetInterval 0) State.reset = .next t) ∧
    (∃ s t : State, s.todo = [] ∧ s.strActive = false ∧ s.curOp = 0x8 ∧ exec .seq s = .next t) ∧
    (∃ t, exec .irqAck { enabled with pending := true } = .next t) ∧
    (∃ t, exec .irqBody (inHandlerWith 500 500 2) = .next t) ∧
    (∃ t, exec .tick enabled = .next t) ∧ ∃ t, exec .edge enabled = .next t :=
  ⟨⟨rfl, _, rfl⟩, ⟨by decide, by decide, _, rfl⟩, ⟨⟨_, rfl⟩, _, rfl⟩,
   ⟨{ atWork with curOp := 0x8 }, _, rfl, rfl, rfl, rfl⟩, ⟨_, rfl⟩, ⟨_, rfl⟩, ⟨_, rfl⟩, _, rfl⟩
/-- Two states whose tachometers differ. -/
theorem witness_DisplayIgnoresTachometerData :
    ∃ s t s' t' : State, s ≠ t ∧ displayView s = displayView t ∧ s.inHandler = t.inHandler ∧
      s.initPostSwitchDelayMs = t.initPostSwitchDelayMs ∧ s.speedReadTearing = t.speedReadTearing ∧
      s.readPos = t.readPos ∧ exec .seq s = .next s' ∧ exec .seq t = .next t' :=
  ⟨{ atWork with todo := [.tx 0x41] }, { atWork with todo := [.tx 0x41], speed := 4000, counter := 62000 }, _, _,
   by decide, rfl, rfl, rfl, rfl, rfl, rfl, rfl⟩
/-- The step that emits, and the reset. -/
theorem witness_TraceGrowsOneEventAStep :
    (∃ s t : State, s.probe = [] ∧ step s = .next t ∧ t.out = s.out ++ [.tx 0x41]) ∧
    (∃ s t : State, s.probe = [] ∧ step s = .next t ∧ s.out = [.tx 0x41] ∧ t.out = []) :=
  ⟨⟨{ atWork with todo := [.tx 0x41], agenda := [.seq] }, _, rfl, rfl, rfl⟩,
   ⟨{ atWork with out := [.tx 0x41], agenda := [.reset] }, _, rfl, rfl, rfl, rfl⟩⟩
/-- Bit 0 set by `IRQ_BODY`, bit 1 by a request, and both kept. -/
theorem witness_StatusBitsAreSticky :
    (∃ t : State, exec .irqBody (inHandlerWith 500 500 2) = .next t ∧ t.status.getLsbD 0 = true ∧
      (inHandlerWith 500 500 2).status.getLsbD 0 = false) ∧
    (∃ t : State, exec (.reservedA 0) State.reset = .next t ∧ t.status.getLsbD 1 = true ∧
      State.reset.status.getLsbD 1 = false) ∧
    (∃ s t : State, exec .tick s = .next t ∧ s.status.getLsbD 0 = true ∧ s.status.getLsbD 1 = true) :=
  ⟨⟨_, rfl, by decide, by decide⟩, ⟨_, rfl, by decide, by decide⟩,
   ⟨{ State.reset with status := 0b11 }, _, rfl, by decide, by decide⟩⟩
theorem witness_NothingButResetShutsDown :
    ∃ s t : State, Instr.edge ≠ .reset ∧ exec .edge s = .next t ∧ s.timerRun = true ∧ s.capCfg = true ∧
      s.capIe = true ∧ s.vecEn = true ∧ s.gie = true ∧ s.csConfigured = true ∧ s.lcdMode = .ready ∧
      s.tstate = .running :=
  ⟨{ enabled with csConfigured := true, lcdMode := .ready, tstate := .running }, _, by decide, rfl, rfl, rfl, rfl, rfl,
   rfl, rfl, rfl, rfl⟩
theorem witness_OnlyThePlatformWritesMemory :
    (∃ t, exec .seq atWork = .next t) ∧
    ∃ s : State, s.probe = [] ∧ s.agenda = [.strWrite 0xFFFFFFFF 0x41] ∧ Memory.wf s.strmem = true :=
  ⟨⟨_, rfl⟩, { State.reset with agenda := [.strWrite 0xFFFFFFFF 0x41], strmem := hiMemory }, rfl, rfl, by decide⟩
theorem witness_StepKeepsSound : ∃ s t : State, Sound s ∧ step s = .next t := by
  refine ⟨{ enabled with agenda := [.tick] }, _, ?_, rfl⟩
  refine ⟨rfl, rfl, ?_, ?_, ?_, ?_, ?_, rfl, rfl, ?_, ?_, ?_, ?_, ?_, ?_, ?_, ?_⟩ <;>
    simp [enabled, State.reset, statusDegenerate, Config.defaultSpeed, intervalOf, speedOf, Config.degenerateSpeed]

end Sys2Proof.Tests
end

section
/-! The statements of 00_scope: the moves of the interleaving (R9, R16), the request port (R9), a word placed from
outside (log 6) and the separation of the display from the tachometer's data (R2). -/

namespace Sys2Proof.Machine

/-! ### A listed move is the next to run (log 1) -/

theorem nextChoice_listed {s : State} {c : Choice} {rest : List Choice} (ha : s.agenda = c :: rest) :
    nextChoice s = (c, { s with agenda := rest }) := by
  simp [nextChoice, ha]

theorem step_of_move_instr {s t : State} {c : Choice} {rest : List Choice} {i : Instr} (hp : s.probe = [])
    (ha : s.agenda = c :: rest) (hi : instrOfChoice c { s with agenda := rest } = (some i, t)) :
    step s = exec i t := by
  rw [step_of_choice s hp, nextChoice_listed ha, hi]

theorem step_of_move_outside {s t : State} {c : Choice} {rest : List Choice} (hp : s.probe = [])
    (ha : s.agenda = c :: rest) (hi : instrOfChoice c { s with agenda := rest } = (none, t)) :
    step s = .next t := by
  rw [step_of_choice s hp, nextChoice_listed ha, hi]

/-! ### The request port (00_scope R9) -/

theorem instrOfChoice_accept_empty {s : State} (h : s.req = none) : instrOfChoice .accept s = (none, s) := by
  simp [instrOfChoice, h]

theorem instrOfChoice_accept_waiting {s : State} {w : ReqWord} (h : s.req = some w) :
    instrOfChoice .accept s = (some (decodeRequest w), takeRequest s) := by
  simp [instrOfChoice, h]

theorem instrOfChoice_present_empty {s : State} (h : s.req = none) (w : ReqWord) :
    instrOfChoice (.present w) s = (none, { s with req := some w }) := by
  simp [instrOfChoice, presentRequest, h]

theorem instrOfChoice_present_occupied {s : State} {q : ReqWord} (h : s.req = some q) (w : ReqWord) :
    instrOfChoice (.present w) s = (none, s) := by
  simp [instrOfChoice, presentRequest, h]

theorem canAccept_eq_false_iff (s : State) : canAccept s = false ↔ s.busy = true ∨ s.inHandler = true := by
  cases hb : s.busy <;> simp [canAccept, hb]

theorem takeRequest_accepted {s : State} (h : canAccept s = true) : takeRequest s = { s with req := none } :=
  if_pos h

theorem takeRequest_held {s : State} (h : canAccept s = false) : takeRequest s = s := by
  simp [takeRequest, h]

theorem acceptStep_held {s : State} (h : canAccept s = false) (op : Nibble) (arg : Word) (load : State → State) :
    acceptStep op arg load s = .next s := by
  simp [acceptStep, h]

theorem step_accept_accepted {s : State} {w : ReqWord} {rest : List Choice} (hp : s.probe = [])
    (ha : s.agenda = .accept :: rest) (hr : s.req = some w) (hb : s.busy = false) (hh : s.inHandler = false) :
    step s = exec (decodeRequest w) { s with agenda := rest, req := none } := by
  have hacc : canAccept { s with agenda := rest } = true := (canAccept_iff _).2 ⟨hb, hh⟩
  have hmove := instrOfChoice_accept_waiting (s := { s with agenda := rest }) hr
  rw [takeRequest_accepted hacc] at hmove
  exact step_of_move_instr hp ha hmove

theorem step_accept_held {s : State} {w : ReqWord} {rest : List Choice} (hp : s.probe = [])
    (ha : s.agenda = .accept :: rest) (hr : s.req = some w) (hbusy : s.busy = true ∨ s.inHandler = true) :
    step s = .next { s with agenda := rest } := by
  have hheld : canAccept { s with agenda := rest } = false := (canAccept_eq_false_iff _).2 hbusy
  have hmove := instrOfChoice_accept_waiting (s := { s with agenda := rest }) hr
  rw [takeRequest_held hheld] at hmove
  obtain ⟨op, arg, load, -, hexec⟩ := exec_decodeRequest_eq w
  rw [step_of_move_instr hp ha hmove, hexec, acceptStep_held hheld]

/-! ### A word placed from outside (log 6) -/

theorem decodeTableWord_eq_some {nbits w : Nat} {i : Instr} (h : decodeTableWord nbits w = some i) :
    decodeBytes (natToBytes (byteCount nbits) w) = .ok i := by
  unfold decodeTableWord at h
  split at h
  · rename_i j hj
    rw [hj, Option.some.inj h]
  · cases h

/-- Five bytes of a number below 2^36 are the request word with that value (30_encoding R80). -/
theorem decodeBytes_natToBytes_five {w : Nat} (hw : w < 2 ^ 36) :
    decodeBytes (natToBytes 5 w) = .ok (decodeRequest (BitVec.ofNat 36 w)) := by
  have hval : bytesToNat (natToBytes 5 w) = w := bytesToNat_natToBytes 5 w (by omega)
  have hlen : (natToBytes 5 w).length = 5 := natToBytes_length 5 w
  rcases decodeBytes_cases (natToBytes 5 w) (by omega) with ⟨-, -, hd⟩ | ⟨-, hbig, -⟩ | ⟨hne, -⟩
  · rw [hd, hval]
  · omega
  · exact absurd hlen hne

theorem step_placed_byte {s : State} {nbits w : Nat} {i : Instr} (hn : byteCount nbits = 1)
    (hd : decodeBytes (natToBytes 1 w) = .ok i) : step (s.withFetchWord nbits w) = exec i { s with probe := [] } := by
  have hplace : s.withFetchWord nbits w = placeProbe [BitVec.ofNat 8 w] s := by
    rcases placeTableWord_cases s nbits w with ⟨h5, -, -⟩ | ⟨-, hp⟩
    · omega
    · rw [State.withFetchWord, hp, hn]; rfl
  rw [hplace]
  exact step_of_probe_ok _ _ [] i rfl hd

theorem step_placed_request {s : State} {nbits w : Nat} (hn : byteCount nbits = 5) (hw : w < 2 ^ 36)
    (hb : s.busy = false) (hh : s.inHandler = false) :
    step (s.withFetchWord nbits w) =
      exec (decodeRequest (BitVec.ofNat 36 w)) { s with probe := [], req := none } := by
  have hplace : s.withFetchWord nbits w = placeRequest (BitVec.ofNat 36 w) s := by
    rcases placeTableWord_cases s nbits w with ⟨-, -, hp⟩ | ⟨hne, -⟩
    · exact hp
    · exact absurd ⟨hn, hw⟩ hne
  rw [hplace]
  exact step_accept_accepted (s := placeRequest (BitVec.ofNat 36 w) s) rfl rfl rfl hb hh

/-! ### What each row of the table is (10_state R22, 00_scope R15, R16) -/

/-- An instruction that has a request word is an `Accept` step of one of the four kinds. -/
theorem exec_of_encode_request {i : Instr} {w : ReqWord} (h : encode i = some (.request w)) :
    ∃ op arg, ∃ load : State → State, RequestLoad load ∧ ∀ s, exec i s = acceptStep op arg load s := by
  cases i
  case lcdInit => exact ⟨_, _, _, .events initEvents, fun _ => rfl⟩
  case lcdOutString => exact ⟨_, _, _, .string _, fun _ => rfl⟩
  case tachGetInterval => exact ⟨_, _, _, .speedRead, fun _ => rfl⟩
  case reservedA | reservedB | reservedC | reservedD | reservedE | reservedF =>
    exact ⟨_, _, _, .illegal, fun _ => rfl⟩
  case lcdClear | lcdCommand | lcdData | lcdOutUDec | lcdOutUHex | lcdOutUFix | tachInit | lcdHome =>
    exact ⟨_, _, _, .events fun _ => _, fun _ => rfl⟩
  all_goals cases h

/-- `Accept` of a word is the step of the instruction the word decodes to (10_state R22, 30_encoding R94). -/
theorem exec_accept_eq_exec_decodeRequest (w : ReqWord) (s : State) :
    exec (.accept w) s = exec (decodeRequest w) s := by
  change execAccept w s = exec (decodeRequest w) s
  unfold execAccept decodeRequest
  generalize (reqOp w).toNat = op
  match op with
  | 2 =>
    by_cases hhome : argByte (reqArg w) = Config.cmdHome
    · simp only [hhome, if_true]
      rfl
    · simp only [hhome, if_false]
      rfl
  | 0 | 1 | 3 | 4 | 5 | 6 | 7 | 8 | 9 | 10 | 11 | 12 | 13 | 14 => rfl
  | _ + 15 => rfl

/-- How an instruction runs: the `Accept` step of a request, a micro-sequence in place, or a step of the sequencer, the
handler or the environment. -/
inductive RunsAs : Instr → Prop where
  | request {i : Instr} {op : Nibble} {arg : Word} {load : State → State} (hload : RequestLoad load)
      (hexec : ∀ s, exec i s = acceptStep op arg load s) : RunsAs i
  | inPlace {i : Instr} {es : List Event} (hexec : ∀ s, exec i s = runInPlace es s) : RunsAs i
  | seq : RunsAs .seq
  | irqAck : RunsAs .irqAck
  | irqBody : RunsAs .irqBody
  | tick : RunsAs .tick
  | edge : RunsAs .edge
  | reset : RunsAs .reset

theorem RunsAs.of_encode_request {i : Instr} {w : ReqWord} (h : encode i = some (.request w)) : RunsAs i := by
  obtain ⟨_, _, _, hload, hexec⟩ := exec_of_encode_request h
  exact .request hload hexec

/-- Every instruction runs in one of these ways. -/
theorem runsAs (i : Instr) : RunsAs i := by
  cases i
  case seq => exact .seq
  case irqAck => exact .irqAck
  case irqBody => exact .irqBody
  case tick => exact .tick
  case edge => exact .edge
  case reset => exact .reset
  case accept w =>
    obtain ⟨_, _, _, hload, hexec⟩ := exec_decodeRequest_eq w
    exact .request hload fun s => (exec_accept_eq_exec_decodeRequest w s).trans (hexec s)
  case frameIdleCmd | frameStrobeCmd | frameIdleData | frameStrobeData | frameGeneral | cmdClear | cmdHome |
      cmdEntryMode | cmdDisplayOn | cmdFunctionSet | nibReset8 | nibSet4 | nibbleWrite | byteXfer =>
    exact .inPlace fun _ => rfl
  all_goals exact .of_encode_request rfl

/-! ### The display sees no tachometer data (00_scope R2) -/

theorem displayView_eq_iff (s t : State) : displayView s = displayView t ↔
    s.busy = t.busy ∧ s.curOp = t.curOp ∧ s.curArg = t.curArg ∧ s.todo = t.todo ∧ s.strActive = t.strActive ∧
    s.strPtr = t.strPtr ∧ s.lcdCrit = t.lcdCrit ∧ s.csConfigured = t.csConfigured ∧ s.lcdMode = t.lcdMode ∧
    s.out = t.out ∧ s.strmem = t.strmem := by
  simp [displayView]

/-- Two states that agree on the display unit and on all that decides how it steps. -/
structure DisplayAgrees (s t : State) : Prop where
  view : displayView s = displayView t
  inHandler : s.inHandler = t.inHandler
  delay : s.initPostSwitchDelayMs = t.initPostSwitchDelayMs
  tearing : s.speedReadTearing = t.speedReadTearing
  readPos : s.readPos = t.readPos

namespace DisplayAgrees

variable {s t : State}

theorem busy (h : DisplayAgrees s t) : s.busy = t.busy := by
  obtain ⟨hfield, -⟩ := (displayView_eq_iff s t).1 h.view
  exact hfield

theorem curOp (h : DisplayAgrees s t) : s.curOp = t.curOp := by
  obtain ⟨-, hfield, -⟩ := (displayView_eq_iff s t).1 h.view
  exact hfield

theorem todo (h : DisplayAgrees s t) : s.todo = t.todo := by
  obtain ⟨-, -, -, hfield, -⟩ := (displayView_eq_iff s t).1 h.view
  exact hfield

theorem strActive (h : DisplayAgrees s t) : s.strActive = t.strActive := by
  obtain ⟨-, -, -, -, hfield, -⟩ := (displayView_eq_iff s t).1 h.view
  exact hfield

theorem canAccept (h : DisplayAgrees s t) : canAccept s = canAccept t := by
  rw [Machine.canAccept, Machine.canAccept, h.busy, h.inHandler]

theorem canSeq (h : DisplayAgrees s t) : canSeq s = canSeq t := by
  rw [Machine.canSeq, Machine.canSeq, h.busy, h.inHandler]

theorem tornReadLeft (h : DisplayAgrees s t) : tornReadLeft s = tornReadLeft t := by
  rw [Machine.tornReadLeft, Machine.tornReadLeft, h.curOp, h.tearing, h.readPos]

end DisplayAgrees

section

variable {s t : State}

theorem displayView_emitAll_congr (h : displayView s = displayView t) (es : List Event) :
    displayView (emitAll es s) = displayView (emitAll es t) := by
  obtain ⟨hbusy, hop, harg, htodo, hact, hptr, hcrit, hcfg, hmode, hout, hmem⟩ := (displayView_eq_iff s t).1 h
  simp [emitAll_eq, displayView, *]

theorem displayView_setTodo_congr (h : displayView s = displayView t) (es : List Event) :
    displayView { s with todo := es } = displayView { t with todo := es } := by
  obtain ⟨hbusy, hop, harg, -, hact, hptr, hcrit, hcfg, hmode, hout, hmem⟩ := (displayView_eq_iff s t).1 h
  simp [displayView, *]

/-- What a request loads depends on the open wait of `LCD_INIT` and on no tachometer data (40_lcd_init R111). -/
theorem RequestLoad.displayView_congr {load : State → State} (hload : RequestLoad load) (h : DisplayAgrees s t)
    (op : Nibble) (arg : Word) :
    displayView (load (latchRequest op arg s)) = displayView (load (latchRequest op arg t)) := by
  obtain ⟨-, -, -, -, -, hptr, hcrit, hcfg, hmode, hout, hmem⟩ := (displayView_eq_iff s t).1 h.view
  cases hload with
  | events f => simp [displayView, h.delay, *]
  | string a => by_cases ha : a = Config.strNull <;> simp [loadString, displayView, *]
  | illegal => simp [displayView, *]
  | speedRead => simp [displayView, *]

theorem stringStep_of_end (h : memRead s.strmem s.strPtr = 0) :
    stringStep s = { s with strPtr := s.strPtr + 1, strActive := false } := if_pos h

theorem stringStep_of_char (h : memRead s.strmem s.strPtr ≠ 0) :
    stringStep s = { s with strPtr := s.strPtr + 1, todo := dataEvents (memRead s.strmem s.strPtr) } := if_neg h

theorem displayView_stringStep_congr (h : displayView s = displayView t) :
    displayView (stringStep s) = displayView (stringStep t) := by
  obtain ⟨hbusy, hop, harg, htodo, hact, hptr, hcrit, hcfg, hmode, hout, hmem⟩ := (displayView_eq_iff s t).1 h
  have hread : memRead s.strmem s.strPtr = memRead t.strmem t.strPtr := by rw [hmem, hptr]
  by_cases hend : memRead t.strmem t.strPtr = 0
  · rw [stringStep_of_end hend, stringStep_of_end (hread.trans hend)]
    simp [displayView, *]
  · rw [stringStep_of_char hend, stringStep_of_char (hread ▸ hend), hread]
    simp [displayView, *]

/-- Of the completion effects only that of `LCD_INIT` reaches the display (40_lcd_init R110, 43_tachometer R161,
R175). -/
theorem displayView_completionEffect (s : State) : displayView (completionEffect s) =
    displayView { s with lcdMode := if s.curOp = 0 then .ready else s.lcdMode } := by
  have other {n : Nat} (hop : s.curOp.toNat = n) (hn : n ≠ 0) : s.curOp ≠ 0 := fun h => hn (by rw [← hop, h]; rfl)
  unfold completionEffect
  split
  case h_1 hop =>
    rw [if_pos (BitVec.eq_of_toNat_eq hop)]; rfl
  case h_2 hop => rw [if_neg (other hop (by decide))]; rfl
  case h_3 hop =>
    rw [if_neg (other hop (by decide)), tachGetIntervalDone]
    split <;> rfl
  case h_4 hne _ _ => rw [if_neg (other rfl hne)]

theorem displayView_completeStep_congr (h : displayView s = displayView t) :
    displayView (completeStep s) = displayView (completeStep t) := by
  have heff : displayView (completionEffect s) = displayView (completionEffect t) := by
    rw [displayView_completionEffect, displayView_completionEffect]
    obtain ⟨hbusy, hop, harg, htodo, hact, hptr, hcrit, hcfg, hmode, hout, hmem⟩ := (displayView_eq_iff s t).1 h
    simp [displayView, *]
  obtain ⟨-, hop, harg, htodo, hact, hptr, hcrit, hcfg, hmode, hout, hmem⟩ := (displayView_eq_iff _ _).1 heff
  simp [completeStep, displayView, *]

/-- One `Seq` step, by what is left to do (10_state R22, 43_tachometer R176). -/
theorem DisplayAgrees.displayView_seqStep (h : DisplayAgrees s t) :
    displayView (seqStep s) = displayView (seqStep t) := by
  unfold seqStep
  rw [h.todo]
  split
  case h_1 e rest _ => exact displayView_emitAll_congr (displayView_setTodo_congr h.view rest) [e]
  case h_2 =>
    rw [h.strActive, h.tornReadLeft]
    split
    · exact displayView_stringStep_congr h.view
    · split
      · exact h.view
      · exact displayView_completeStep_congr h.view

end

/-! What each way to run gives two agreeing states, and the steps that leave the display view alone. -/

section

variable {s t s' t' : State}

theorem displayView_acceptStep_congr {op : Nibble} {arg : Word} {load : State → State} (hload : RequestLoad load)
    (h : DisplayAgrees s t) (hs : acceptStep op arg load s = .next s') (ht : acceptStep op arg load t = .next t') :
    displayView s' = displayView t' := by
  obtain rfl := Host.Outcome.next.inj hs
  obtain rfl := Host.Outcome.next.inj ht
  rw [h.canAccept]
  split
  · exact hload.displayView_congr h op arg
  · exact h.view

theorem displayView_runInPlace_congr {es : List Event} (h : DisplayAgrees s t) (hs : runInPlace es s = .next s')
    (ht : runInPlace es t = .next t') : displayView s' = displayView t' := by
  obtain rfl := Host.Outcome.next.inj hs
  obtain rfl := Host.Outcome.next.inj ht
  rw [h.inHandler]
  split
  · exact h.view
  · exact displayView_emitAll_congr h.view es

theorem displayView_seq_congr (h : DisplayAgrees s t) (hs : exec .seq s = .next s') (ht : exec .seq t = .next t') :
    displayView s' = displayView t' := by
  obtain rfl := Host.Outcome.next.inj hs
  obtain rfl := Host.Outcome.next.inj ht
  rw [h.canSeq]
  split
  · exact h.displayView_seqStep
  · exact h.view

theorem displayView_reset_congr (h : DisplayAgrees s t) (hs : exec .reset s = .next s')
    (ht : exec .reset t = .next t') : displayView s' = displayView t' := by
  obtain rfl := Host.Outcome.next.inj hs
  obtain rfl := Host.Outcome.next.inj ht
  obtain ⟨-, -, -, -, -, -, -, -, -, -, hmem⟩ := (displayView_eq_iff s t).1 h.view
  simp [displayView, hardwareReset, hmem]

theorem displayView_of_irqAck (hs : exec .irqAck s = .next s') : displayView s' = displayView s := by
  obtain rfl := Host.Outcome.next.inj hs
  split <;> rfl

theorem displayView_of_irqBody (hs : exec .irqBody s = .next s') : displayView s' = displayView s := by
  obtain rfl := Host.Outcome.next.inj hs
  rw [irqBodyStep_eq]
  split <;> rfl

theorem displayView_of_tick (hs : exec .tick s = .next s') : displayView s' = displayView s := by
  obtain rfl := Host.Outcome.next.inj hs
  split <;> rfl

theorem displayView_of_edge (hs : exec .edge s = .next s') : displayView s' = displayView s := by
  obtain rfl := Host.Outcome.next.inj hs
  split <;> rfl

theorem displayView_exec_congr (i : Instr) (h : DisplayAgrees s t) (hs : exec i s = .next s')
    (ht : exec i t = .next t') : displayView s' = displayView t' := by
  cases runsAs i with
  | request hload hexec => exact displayView_acceptStep_congr hload h (hexec s ▸ hs) (hexec t ▸ ht)
  | inPlace hexec => exact displayView_runInPlace_congr h (hexec s ▸ hs) (hexec t ▸ ht)
  | seq => exact displayView_seq_congr h hs ht
  | irqAck => rw [displayView_of_irqAck hs, displayView_of_irqAck ht, h.view]
  | irqBody => rw [displayView_of_irqBody hs, displayView_of_irqBody ht, h.view]
  | tick => rw [displayView_of_tick hs, displayView_of_tick ht, h.view]
  | edge => rw [displayView_of_edge hs, displayView_of_edge ht, h.view]
  | reset => exact displayView_reset_congr h hs ht

end

end Sys2Proof.Machine

/-! ### The statements -/

namespace Sys2Proof.Claims

open Sys2Proof Sys2Proof.Machine

/-- Settles O4: the request on the port is taken or held by the two branches of `canAccept`. -/
theorem stepRunsTheRequestOnThePort : Obligations.StepRunsTheRequestOnThePort := by
  unfold Obligations.StepRunsTheRequestOnThePort
  intro s w rest hp ha hr
  exact ⟨step_accept_accepted hp ha hr, step_accept_held hp ha hr⟩

/-- Settles O5: one move of the agenda after the other, each by what `instrOfChoice` makes of it. -/
theorem stepRunsTheChosenAgent : Obligations.StepRunsTheChosenAgent := by
  unfold Obligations.StepRunsTheChosenAgent
  intro s c rest hp ha
  refine ⟨?seq, ?irqAck, ?irqBody, ?tick, ?edge, ?reset, ?acceptEmpty, ?presentEmpty, ?presentOccupied⟩
  case seq | irqAck | irqBody | tick | edge | reset =>
    rintro rfl
    exact step_of_move_instr hp ha rfl
  case acceptEmpty =>
    rintro rfl hr
    exact step_of_move_outside hp ha (instrOfChoice_accept_empty hr)
  case presentEmpty =>
    rintro w rfl hr
    exact step_of_move_outside hp ha (instrOfChoice_present_empty (s := { s with agenda := rest }) hr w)
  case presentOccupied =>
    rintro w q rfl hr
    exact step_of_move_outside hp ha (instrOfChoice_present_occupied (s := { s with agenda := rest }) hr w)

/-- Settles O7: a byte is read from the probe, a request word from the port by the host's move. -/
theorem placedWordRunsNext : Obligations.PlacedWordRunsNext := by
  unfold Obligations.PlacedWordRunsNext
  intro s nbits w i hi
  have hd := decodeTableWord_eq_some hi
  constructor
  · intro hn
    rw [hn] at hd
    exact step_placed_byte hn hd
  · intro hn hw hb hh
    rw [hn, decodeBytes_natToBytes_five hw] at hd
    rw [← Except.ok.inj hd]
    exact step_placed_request hn hw hb hh

/-- Settles O18: every row with a request word is an `Accept` step, which is held while the sequencer is busy. -/
theorem busyHoldsEveryRequest : Obligations.BusyHoldsEveryRequest := by
  unfold Obligations.BusyHoldsEveryRequest
  intro i w s hi hbusy
  obtain ⟨op, arg, load, -, hexec⟩ := exec_of_encode_request hi
  rw [hexec, acceptStep_held ((canAccept_eq_false_iff s).2 (.inl hbusy))]

/-- Settles O50: the display view after an instruction is the same in two agreeing states, by how it runs. -/
theorem displayIgnoresTachometerData : Obligations.DisplayIgnoresTachometerData := by
  unfold Obligations.DisplayIgnoresTachometerData
  intro i s t s' t' hview hhandler hdelay htearing hpos hs ht
  exact displayView_exec_congr i ⟨hview, hhandler, hdelay, htearing, hpos⟩ hs ht

end Sys2Proof.Claims
end
section
/-! The statements of 10_state: the sequencer (R22, R28), the sticky records (R25, R26, R30 to R32, R47), the handler's
context (R41), the reset values (R49), and the invariant `Sound` under every step. -/

namespace Sys2Proof.Machine

/-! ### What a request may load (10_state R22, R23) -/

/-- An event list an operation may load: it leaves every critical section it enters (41_lcd R126), and the block may
emit each of its events (30_encoding R85, 10_state R28). -/
structure LegalEvents (es : List Event) : Prop where
  level : critLevel false es = some false
  ok : ∀ e ∈ es, eventOk e = true

theorem LegalEvents.nil : LegalEvents [] := ⟨rfl, nofun⟩

theorem LegalEvents.append {xs ys : List Event} (hx : LegalEvents xs) (hy : LegalEvents ys) :
    LegalEvents (xs ++ ys) where
  level := by simp [critLevel_append, hx.level, hy.level]
  ok e he := (List.mem_append.1 he).elim (hx.ok e) (hy.ok e)

theorem LegalEvents.csInit : LegalEvents [.csInit] := ⟨rfl, by simp [eventOk]⟩

theorem LegalEvents.delay {n : Nat} (hn : n ≠ 0) : LegalEvents [.delay n] := ⟨rfl, by simp [eventOk, hn]⟩

theorem LegalEvents.optionalDelay (n : Nat) : LegalEvents (optionalDelay n) := by
  unfold Machine.optionalDelay
  split
  · exact .nil
  · exact .delay ‹_›

theorem critLevel_nibbleWriteEvents (l : Bool) (v : Byte) (c : Nibble) :
    critLevel l (nibbleWriteEvents v c) = some l := rfl

/-- The control patterns the operations use: 0 for a command, register-select for a character (41_lcd R127, R128). -/
def LegalControl (c : Nibble) : Prop := c = 0x0 ∨ c = Config.ctrlRs

/-- Control bits 3 and 2 of a nibble transfer's frames are 0 (30_encoding R85). -/
theorem eventOk_of_mem_nibbleWriteEvents {c : Nibble} (hc : LegalControl c) (v : Byte) :
    ∀ e ∈ nibbleWriteEvents v c, eventOk e = true := by
  rcases hc with rfl | rfl <;>
    simp [nibbleWriteEvents, eventOk, hiNibble, controlBits, enableBit, Config.ctrlEn, Config.ctrlRs]

theorem LegalEvents.nibbleWrite {c : Nibble} (hc : LegalControl c) (v : Byte) :
    LegalEvents (nibbleWriteEvents v c) :=
  ⟨critLevel_nibbleWriteEvents false v c, eventOk_of_mem_nibbleWriteEvents hc v⟩

/-- A byte transfer is one critical section around two nibble transfers (41_lcd R123, R126). -/
theorem LegalEvents.byteXfer {c : Nibble} (hc : LegalControl c) (b : Byte) : LegalEvents (byteXferEvents b c) where
  level := by simp [byteXferEvents, critLevel, critLevel_append, critLevel_nibbleWriteEvents]
  ok e he := by
    simp only [byteXferEvents, List.mem_cons, List.mem_append, List.not_mem_nil, or_false] at he
    rcases he with rfl | (hhi | hlo) | rfl
    · rfl
    · exact eventOk_of_mem_nibbleWriteEvents hc _ e hhi
    · exact eventOk_of_mem_nibbleWriteEvents hc _ e hlo
    · rfl

theorem commandDelayMs_ne_zero (b : Byte) : commandDelayMs b ≠ 0 := by
  unfold commandDelayMs
  split <;> decide

theorem LegalEvents.command (b : Byte) : LegalEvents (commandEvents b) :=
  (byteXfer (.inl rfl) b).append (delay (commandDelayMs_ne_zero b))

theorem LegalEvents.data (b : Byte) : LegalEvents (dataEvents b) :=
  (byteXfer (.inr rfl) b).append (delay (by decide))

theorem LegalEvents.text (cs : List Byte) : LegalEvents (textEvents cs) := by
  induction cs with
  | nil => exact .nil
  | cons c cs ih => exact (LegalEvents.data c).append ih

theorem LegalEvents.init (p : Nat) : LegalEvents (initEvents p) := by
  have pulse (v : Byte) : LegalEvents (nibbleWriteEvents v 0) := .nibbleWrite (.inl rfl) v
  have wait {n : Nat} (hn : n ≠ 0) : LegalEvents [.delay n] := .delay hn
  unfold initEvents
  exact csInit.append (wait (by decide)) |>.append (pulse _) |>.append (wait (by decide)) |>.append (pulse _)
    |>.append (wait (by decide)) |>.append (pulse _) |>.append (wait (by decide)) |>.append (pulse _)
    |>.append (optionalDelay p) |>.append (command _) |>.append (command _) |>.append (command _)
    |>.append (command _)

/-- What the request with operation code `op` loads: of the lists that transmit, only that of `LCD_INIT` configures the
chip select, and only `LCD_OUTSTRING` starts the string loop (10_state R22, 40_lcd_init R111, 42_lcd R141). -/
inductive LegalLoad : Nibble → (State → State) → Prop where
  | init : LegalLoad 0x0 fun s => loadTodo (initEvents s.initPostSwitchDelayMs) s
  | events {op : Nibble} {es : List Event} (hop : op ≠ 0x0) (hes : LegalEvents es) : LegalLoad op (loadTodo es)
  | string (a : Addr) : LegalLoad 0x4 (loadString a)
  | illegal {op : Nibble} (hop : op ≠ 0x0) : LegalLoad op loadIllegal
  | speedRead : LegalLoad 0x9 loadSpeedRead

theorem LegalLoad.requestLoad {op : Nibble} {load : State → State} (h : LegalLoad op load) : RequestLoad load := by
  cases h with
  | init => exact .events initEvents
  | events => exact .events fun _ => _
  | string a => exact .string a
  | illegal => exact .illegal
  | speedRead => exact .speedRead

/-- `Accept` of a word latches the word's own fields and loads what its operation code selects (10_state R22,
30_encoding R80 to R83). -/
theorem exec_accept_eq_acceptStep (w : ReqWord) : ∃ load, LegalLoad (reqOp w) load ∧
    ∀ s, exec (.accept w) s = acceptStep (reqOp w) (reqArg w) load s := by
  have hexec (s : State) : exec (.accept w) s = execAccept w s := rfl
  have harg := byteArg_eta (reqArg w)
  simp only [hexec, execAccept, execLcdCommand, execLcdData, harg]
  generalize reqArg w = arg
  generalize reqOp w = op
  match op with
  | 0x0#4 => exact ⟨_, .init, fun _ => rfl⟩
  | 0x1#4 => exact ⟨_, .events (by decide) (.command _), fun _ => rfl⟩
  | 0x2#4 => exact ⟨_, .events (by decide) (.command _), fun _ => rfl⟩
  | 0x3#4 => exact ⟨_, .events (by decide) (.data _), fun _ => rfl⟩
  | 0x4#4 => exact ⟨_, .string _, fun _ => rfl⟩
  | 0x5#4 | 0x6#4 | 0x7#4 => exact ⟨_, .events (by decide) (.text _), fun _ => rfl⟩
  | 0x8#4 => exact ⟨_, .events (by decide) .nil, fun _ => rfl⟩
  | 0x9#4 => exact ⟨_, .speedRead, fun _ => rfl⟩
  | 0xA#4 | 0xB#4 | 0xC#4 | 0xD#4 | 0xE#4 | 0xF#4 => exact ⟨_, .illegal (by decide), fun _ => rfl⟩
  | ⟨⟨n + 16, hn⟩⟩ => exact absurd hn (by omega)

/-! ### What each agent's step can be (10_state R22, 43_tachometer R163, R164) -/

/-- One enabled `Seq` step: an event, an iteration of the string loop, a byte of a torn read, or the completing step of
one of the operations with a completion effect or of another (10_state R22, 43_tachometer R176). -/
inductive SeqEffect (s : State) : State → Prop where
  | emits {e : Event} {rest : List Event} (htodo : s.todo = e :: rest) :
      SeqEffect s (emit e { s with todo := rest })
  | stringEnds (htodo : s.todo = []) (hread : memRead s.strmem s.strPtr = 0) :
      SeqEffect s { s with strPtr := s.strPtr + 1, strActive := false }
  | stringReads (htodo : s.todo = []) (hread : memRead s.strmem s.strPtr ≠ 0) :
      SeqEffect s { s with strPtr := s.strPtr + 1, todo := dataEvents (memRead s.strmem s.strPtr) }
  | tornRead (htodo : s.todo = []) (hpos : s.readPos < 4) : SeqEffect s (tornReadStep s)
  | initDone (htodo : s.todo = []) (hact : s.strActive = false) (hop : s.curOp = 0x0) :
      SeqEffect s (signalDone (lcdInitDone s))
  | tachDone (htodo : s.todo = []) (hact : s.strActive = false) (hop : s.curOp = 0x8) :
      SeqEffect s (signalDone (tachInitDone s))
  | otherDone (htodo : s.todo = []) (hact : s.strActive = false) (r : Word) :
      SeqEffect s (signalDone { s with resp := r })

theorem SeqEffect.of_completeStep {s : State} (htodo : s.todo = []) (hact : s.strActive = false) :
    SeqEffect s (completeStep s) := by
  unfold completeStep completionEffect
  split
  case h_1 hop => exact .initDone htodo hact (BitVec.eq_of_toNat_eq hop)
  case h_2 hop => exact .tachDone htodo hact (BitVec.eq_of_toNat_eq hop)
  case h_3 =>
    unfold tachGetIntervalDone
    split
    · exact .otherDone htodo hact s.resp
    · exact .otherDone htodo hact s.speed
  case h_4 => exact .otherDone htodo hact s.resp

theorem seqEffect_seqStep (s : State) : SeqEffect s (seqStep s) := by
  rcases seqStep_cases s with ⟨e, rest, htodo, heq⟩ | ⟨htodo, -, heq⟩ | ⟨htodo, -, htorn, heq⟩ |
    ⟨htodo, hact, -, heq⟩ <;> rw [heq]
  · exact .emits htodo
  · rcases stringStep_cases s with ⟨hread, heq⟩ | ⟨hread, heq⟩ <;> rw [heq]
    · exact .stringEnds htodo hread
    · exact .stringReads htodo hread
  · simp only [tornReadLeft, Bool.and_eq_true, decide_eq_true_eq] at htorn
    exact .tornRead htodo htorn.2
  · exact .of_completeStep htodo hact

section

variable {s t : State}

theorem exec_seq_of_canSeq (h : canSeq s = true) : exec .seq s = .next (seqStep s) := by
  simp [exec, execSeq, h]

theorem exec_seq_held (h : s.busy = false ∨ s.inHandler = true) : exec .seq s = .next s := by
  have hheld : canSeq s = false := by rcases h with h | h <;> simp [canSeq, h]
  simp [exec, execSeq, hheld]

theorem exec_seq_cases (h : exec .seq s = .next t) :
    t = s ∨ (s.busy = true ∧ s.inHandler = false ∧ SeqEffect s t) := by
  obtain rfl := Host.Outcome.next.inj h
  split
  · obtain ⟨hbusy, hhandler⟩ := (canSeq_iff s).1 ‹_›
    exact .inr ⟨hbusy, hhandler, seqEffect_seqStep s⟩
  · exact .inl rfl

theorem acceptStep_next {op : Nibble} {arg : Word} {load : State → State} (h : acceptStep op arg load s = .next t) :
    t = s ∨ (canAccept s = true ∧ t = load (latchRequest op arg s)) := by
  rcases acceptStep_cases op arg load s with ⟨hacc, heq⟩ | ⟨-, heq⟩ <;>
    obtain rfl := Host.Outcome.next.inj (heq.symm.trans h)
  · exact .inr ⟨hacc, rfl⟩
  · exact .inl rfl

theorem exec_irqAck_cases (h : exec .irqAck s = .next t) :
    t = s ∨ (canTakeInterrupt s = true ∧ t = enterHandler s) := by
  rcases irqAck_cases s with ⟨htake, heq⟩ | ⟨-, heq⟩ <;>
    obtain rfl := Host.Outcome.next.inj (heq.symm.trans h)
  · exact .inr ⟨htake, rfl⟩
  · exact .inl rfl

theorem exec_irqBody_cases (h : exec .irqBody s = .next t) : t = s ∨ (s.inHandler = true ∧ t = irqBodyStep s) := by
  rcases irqBody_cases s with ⟨hin, heq⟩ | ⟨-, heq⟩ <;>
    obtain rfl := Host.Outcome.next.inj (heq.symm.trans h)
  · exact .inr ⟨hin, rfl⟩
  · exact .inl rfl

theorem exec_tick_eq (s : State) : exec .tick s = .next { s with
    counter := if s.timerRun then (if s.counter = 0 then Config.counterMax else s.counter - 1) else s.counter } := by
  simp only [exec, execTick]
  split <;> rfl

theorem exec_edge_cases (h : exec .edge s = .next t) : t = s ∨ (s.timerRun = true ∧ t = { s with
    cap := s.counter, pending := true, tstate := if s.tstate = .configured then .running else s.tstate }) := by
  obtain rfl := Host.Outcome.next.inj h
  split
  · exact .inr ⟨(Bool.and_eq_true_iff.1 ‹_›).1, rfl⟩
  · exact .inl rfl

end

/-! ### What a step of the machine can be (00_scope R16, 60_exceptions R201) -/

/-- The instructions the agents perform: a row below the request port is none of them (00_scope R16, log 9). -/
inductive AgentInstr : Instr → Prop where
  | request (w : ReqWord) : AgentInstr (decodeRequest w)
  | seq : AgentInstr .seq
  | irqAck : AgentInstr .irqAck
  | irqBody : AgentInstr .irqBody
  | tick : AgentInstr .tick
  | edge : AgentInstr .edge
  | reset : AgentInstr .reset

/-- A state whose surroundings moved on: the request port, the string space and the schedule (00_scope R9, 20_memory
R69, log 1). -/
def withSurroundings (req : Option ReqWord) (strmem : Memory) (agenda : List Choice) (draws : Nat) (s : State) :
    State :=
  { s with req := req, strmem := strmem, agenda := agenda, draws := draws }

theorem nextChoice_eq_withSurroundings (s : State) :
    ∃ agenda draws, (nextChoice s).2 = withSurroundings s.req s.strmem agenda draws s := by
  unfold nextChoice
  split
  · exact ⟨_, _, rfl⟩
  · exact ⟨_, _, rfl⟩

/-- A move leaves the block alone, the string space in canonical form, and names an agent's instruction or none. -/
theorem instrOfChoice_eq_withSurroundings (c : Choice) (s : State) :
    ∃ req strmem, (Memory.wf s.strmem = true → Memory.wf strmem = true) ∧
      (instrOfChoice c s).2 = withSurroundings req strmem s.agenda s.draws s ∧
      ∀ i, (instrOfChoice c s).1 = some i → AgentInstr i := by
  cases c with
  | present w =>
    cases hreq : s.req with
    | none =>
      rw [instrOfChoice_present_empty hreq]
      exact ⟨some w, s.strmem, id, rfl, nofun⟩
    | some q =>
      rw [instrOfChoice_present_occupied hreq]
      exact ⟨s.req, s.strmem, id, rfl, nofun⟩
  | strWrite a b => exact ⟨s.req, _, wf_store s.strmem a b, rfl, nofun⟩
  | accept =>
    cases hreq : s.req with
    | none =>
      rw [instrOfChoice_accept_empty hreq]
      exact ⟨s.req, s.strmem, id, rfl, nofun⟩
    | some w =>
      have hagent : ∀ i, some (decodeRequest w) = some i → AgentInstr i := by
        rintro i ⟨⟩
        exact .request w
      rw [instrOfChoice_accept_waiting hreq]
      cases hacc : canAccept s with
      | true =>
        rw [takeRequest_accepted hacc]
        exact ⟨none, s.strmem, id, rfl, hagent⟩
      | false =>
        rw [takeRequest_held hacc]
        exact ⟨s.req, s.strmem, id, rfl, hagent⟩
  | seq => exact ⟨s.req, s.strmem, id, rfl, by rintro i ⟨⟩; exact .seq⟩
  | irqAck => exact ⟨s.req, s.strmem, id, rfl, by rintro i ⟨⟩; exact .irqAck⟩
  | irqBody => exact ⟨s.req, s.strmem, id, rfl, by rintro i ⟨⟩; exact .irqBody⟩
  | tick => exact ⟨s.req, s.strmem, id, rfl, by rintro i ⟨⟩; exact .tick⟩
  | edge => exact ⟨s.req, s.strmem, id, rfl, by rintro i ⟨⟩; exact .edge⟩
  | reset => exact ⟨s.req, s.strmem, id, rfl, by rintro i ⟨⟩; exact .reset⟩

/-- A step moves the surroundings on, and then the block stands still or an agent performs its instruction. -/
theorem step_cases {s t : State} (hp : s.probe = []) (h : step s = .next t) :
    ∃ req strmem agenda draws, (Memory.wf s.strmem = true → Memory.wf strmem = true) ∧
      (t = withSurroundings req strmem agenda draws s ∨
        ∃ i, AgentInstr i ∧ exec i (withSurroundings req strmem agenda draws s) = .next t) := by
  obtain ⟨agenda, draws, hnext⟩ := nextChoice_eq_withSurroundings s
  obtain ⟨req, strmem, hwf, hstate, hagent⟩ := instrOfChoice_eq_withSurroundings (nextChoice s).1 (nextChoice s).2
  rw [step_of_choice s hp] at h
  rw [hnext] at h hstate hwf hagent
  refine ⟨req, strmem, agenda, draws, hwf, ?_⟩
  rcases hmove : instrOfChoice (nextChoice s).1 (withSurroundings s.req s.strmem agenda draws s) with ⟨_ | i, u⟩ <;>
    rw [hmove] at h hstate hagent
  · obtain rfl := Host.Outcome.next.inj h
    exact .inl hstate
  · exact .inr ⟨i, hagent i rfl, (congrArg (exec i) hstate).symm.trans h⟩

/-! ### The invariant at reset and under each agent's step -/

theorem sound_reset : Sound State.reset where
  memory := wf_reset
  agents := rfl
  enables := ⟨rfl, rfl, rfl, rfl⟩
  uninitialized := ⟨fun _ => rfl, fun _ => rfl⟩
  running := by decide
  idle _ := ⟨rfl, rfl⟩
  string := nofun
  critOut := rfl
  critTodo := rfl
  handler := nofun
  events := ⟨nofun, nofun⟩
  interval := by decide
  speed := rfl
  early := ⟨fun _ => ⟨rfl, by decide⟩, fun _ => rfl⟩
  ready := nofun
  init := nofun
  torn := Nat.zero_le 4

section

variable {s : State}

theorem Sound.withSurroundings (h : Sound s) (req : Option ReqWord) {strmem : Memory}
    (hmem : Memory.wf strmem = true) (agenda : List Choice) (draws : Nat) :
    Sound (withSurroundings req strmem agenda draws s) :=
  { h with memory := hmem }

/-- Where nothing is left to emit, the block is outside every critical section (41_lcd R126). -/
theorem Sound.lcdCrit_of_todo_nil (h : Sound s) (htodo : s.todo = []) : s.lcdCrit = false := by
  have hlevel := h.critTodo
  rw [htodo] at hlevel
  exact Option.some.inj hlevel

theorem Sound.csConfigured_of_init_todo_nil (h : Sound s) (hbusy : s.busy = true) (hop : s.curOp = 0x0)
    (htodo : s.todo = []) : s.csConfigured = true := by
  rcases h.init hbusy hop with hcfg | hmem
  · exact hcfg
  · rw [htodo] at hmem
    cases hmem

/-! #### The sequencer -/

/-- A list the block may emit can be loaded where the last one is done: the block is outside every section there. -/
theorem Sound.legalTodo (h : Sound s) (htodo : s.todo = []) {es : List Event} (hes : LegalEvents es) :
    critLevel s.lcdCrit es = some false ∧ (∀ e ∈ s.out, eventOk e = true) ∧ ∀ e ∈ es, eventOk e = true := by
  rw [h.lcdCrit_of_todo_nil htodo]
  exact ⟨hes.level, h.events.1, hes.ok⟩

/-- The head event keeps the trace's sections in turn with `lcd_crit`, and the rest of the list too (41_lcd R126). -/
theorem critLevel_emit {e : Event} {rest : List Event} (htodo : critLevel s.lcdCrit (e :: rest) = some false) :
    critLevel s.lcdCrit [e] = some (emit e s).lcdCrit ∧ critLevel (emit e s).lcdCrit rest = some false := by
  cases e with
  | critEnter =>
    cases hcrit : s.lcdCrit <;> rw [hcrit] at htodo
    · exact ⟨rfl, htodo⟩
    · cases htodo
  | critExit =>
    cases hcrit : s.lcdCrit <;> rw [hcrit] at htodo
    · cases htodo
    · exact ⟨rfl, htodo⟩
  | csInit | tx | delay => exact ⟨rfl, htodo⟩

theorem emit_csConfigured_mono (e : Event) (h : s.csConfigured = true) : (emit e s).csConfigured = true := by
  cases e <;> simp [h]

theorem Sound.emits (h : Sound s) {e : Event} {rest : List Event} (hbusy : s.busy = true)
    (hhandler : s.inHandler = false) (htodo : s.todo = e :: rest) : Sound (emit e { s with todo := rest }) := by
  have hlevel := h.critTodo
  rw [htodo] at hlevel
  obtain ⟨hstep, hrest⟩ := critLevel_emit (s := { s with todo := rest }) hlevel
  obtain ⟨hout, hevents⟩ := h.events
  rw [htodo, List.forall_mem_cons] at hevents
  exact {
    memory := by simpa using h.memory
    agents := by simpa [agentsOnly] using h.agents
    enables := by simpa using h.enables
    uninitialized := by simpa using h.uninitialized
    running := by simpa using h.running
    idle := by simp [hbusy]
    string := by simpa using h.string
    critOut := by
      rw [emit_out, critLevel_append, h.critOut]
      exact hstep
    critTodo := by simpa using hrest
    handler := by simp [hhandler]
    events := by
      refine ⟨?_, by simpa using hevents.2⟩
      simpa [or_imp, forall_and, hevents.1] using hout
    interval := by simpa using h.interval
    speed := by simpa using h.speed
    early := by simpa [statusDegenerate] using h.early
    ready := fun hready => emit_csConfigured_mono e (h.ready (by simpa using hready))
    init := by
      intro _ hop
      rcases h.init hbusy (by simpa using hop) with hcfg | hmem
      · exact .inl (emit_csConfigured_mono e hcfg)
      · rw [htodo] at hmem
        rcases List.mem_cons.1 hmem with rfl | hmem
        · exact .inl rfl
        · exact .inr (by simpa using hmem)
    torn := by simpa using h.torn }

theorem Sound.stringReads (h : Sound s) (hbusy : s.busy = true) (htodo : s.todo = []) (ptr : Addr) (b : Byte) :
    Sound { s with strPtr := ptr, todo := dataEvents b } := by
  obtain ⟨hlevel, hevents⟩ := h.legalTodo htodo (.data b)
  exact { h with
    idle := fun hidle => absurd (hbusy.symm.trans hidle) nofun
    critTodo := hlevel
    events := hevents
    init := fun hb hop => .inl (h.csConfigured_of_init_todo_nil hb hop htodo) }

theorem Sound.stringEnds (h : Sound s) (ptr : Addr) : Sound { s with strPtr := ptr, strActive := false } :=
  { h with
    idle := fun hidle => ⟨(h.idle hidle).1, rfl⟩
    string := nofun }

theorem Sound.tornRead (h : Sound s) (hpos : s.readPos < 4) : Sound (tornReadStep s) :=
  { h with torn := hpos }

theorem Sound.signalDone (h : Sound s) (htodo : s.todo = []) (hact : s.strActive = false) : Sound (signalDone s) :=
  { h with
    idle := fun _ => ⟨htodo, hact⟩
    init := nofun }

theorem Sound.lcdInitDone (h : Sound s) (hcfg : s.csConfigured = true) : Sound (lcdInitDone s) :=
  { h with ready := fun _ => hcfg }

theorem Sound.tachInitDone (h : Sound s) (hhandler : s.inHandler = false) : Sound (tachInitDone s) :=
  { h with
    enables := ⟨rfl, rfl, rfl, rfl⟩
    uninitialized := by simp only [tachInitDone_tstate, tachInitDone_timerRun]; split <;> simp [*]
    running := by
      have hrun (hcount : s.ncap ≠ 0) : s.tstate = .running := h.running (.inr (.inr hcount))
      simp +contextual [hhandler, hrun] }

theorem Sound.seq {t : State} (h : Sound s) (hexec : exec .seq s = .next t) : Sound t := by
  rcases exec_seq_cases hexec with rfl | ⟨hbusy, hhandler, heffect⟩
  · exact h
  cases heffect with
  | emits htodo => exact h.emits hbusy hhandler htodo
  | stringEnds => exact h.stringEnds _
  | stringReads htodo => exact h.stringReads hbusy htodo _ _
  | tornRead _ hpos => exact h.tornRead hpos
  | initDone htodo hact hop =>
    exact (h.lcdInitDone (h.csConfigured_of_init_todo_nil hbusy hop htodo)).signalDone htodo hact
  | tachDone htodo hact => exact (h.tachInitDone hhandler).signalDone htodo hact
  | otherDone htodo hact r => exact Sound.signalDone (s := { s with resp := r }) { h with } htodo hact

/-! #### The host's request -/

/-- A refused request sets status bit 1, and the invariant speaks of bit 0 (10_state R47, 60_exceptions R194). -/
theorem Sound.raiseIllegalOp (h : Sound s) : Sound (raiseIllegalOp s) :=
  { h with early := by simpa [statusDegenerate] using h.early }

/-- A latched request with a legal list to emit, and with the string loop for `LCD_OUTSTRING` only (10_state R22). -/
theorem Sound.latched (h : Sound s) (hacc : canAccept s = true) {op : Nibble} (arg : Word) {es : List Event}
    {act : Bool} (ptr : Addr) {pos : Nat} (hes : LegalEvents es) (hinit : op = 0x0 → Event.csInit ∈ es)
    (hact : act = true → op = 0x4) (hpos : pos ≤ 4) :
    Sound { latchRequest op arg s with todo := es, strActive := act, strPtr := ptr, readPos := pos } := by
  obtain ⟨hbusy, -⟩ := (canAccept_iff s).1 hacc
  obtain ⟨hlevel, hevents⟩ := h.legalTodo (h.idle hbusy).1 hes
  exact { h with
    idle := nofun
    string := hact
    critTodo := hlevel
    events := hevents
    init := fun _ hop => .inr (hinit hop)
    torn := hpos }

theorem csInit_mem_initEvents (p : Nat) : Event.csInit ∈ initEvents p := by simp [initEvents]

theorem Sound.loads (h : Sound s) (hacc : canAccept s = true) {op : Nibble} {load : State → State}
    (hload : LegalLoad op load) (arg : Word) : Sound (load (latchRequest op arg s)) := by
  cases hload with
  | init => exact h.latched hacc arg s.strPtr (.init _) (fun _ => csInit_mem_initEvents _) nofun h.torn
  | events hop hes => exact h.latched hacc arg s.strPtr hes (absurd · hop) nofun h.torn
  | string a =>
    unfold loadString
    split
    · exact (h.latched (op := 0x4) (act := false) hacc arg s.strPtr .nil nofun nofun h.torn).raiseIllegalOp
    · exact h.latched hacc arg a .nil nofun (fun _ => rfl) h.torn
  | illegal hop => exact (h.latched (act := false) hacc arg s.strPtr .nil (absurd · hop) nofun h.torn).raiseIllegalOp
  | speedRead => exact h.latched hacc arg s.strPtr .nil nofun nofun (Nat.zero_le 4)

theorem Sound.request {t : State} (h : Sound s) {w : ReqWord} (hexec : exec (decodeRequest w) s = .next t) :
    Sound t := by
  obtain ⟨load, hload, haccept⟩ := exec_accept_eq_acceptStep w
  rw [← exec_accept_eq_exec_decodeRequest, haccept] at hexec
  rcases acceptStep_next hexec with rfl | ⟨hacc, rfl⟩
  · exact h
  · exact h.loads hacc hload _

/-! #### The handler and the environment -/

theorem Sound.irqAck {t : State} (h : Sound s) (hexec : exec .irqAck s = .next t) : Sound t := by
  rcases exec_irqAck_cases hexec with rfl | ⟨htake, rfl⟩
  · exact h
  obtain ⟨hpending, -, -, -, hcrit, -⟩ := (canTakeInterrupt_iff s).1 htake
  exact { h with
    running := fun _ => h.running (.inl hpending)
    handler := fun _ => hcrit }

theorem toNat_intervalOf_zero (cap : Half) : (intervalOf 0 cap).toNat = (4294967296 - cap.toNat) % 4294967296 := by
  have hcap := half_toNat_lt cap
  simp [intervalOf, Nat.mod_eq_of_lt (show cap.toNat < 4294967296 by omega)]

/-- The interval of the first capture is 0 or above the clock rate, and so the speed is 0 (43_tachometer R173). -/
theorem speedOf_intervalOf_zero (cap : Half) : speedOf (intervalOf 0 cap) = 0 := by
  unfold speedOf
  split
  · rfl
  · rename_i hne
    have hbig : Config.clockHz.toNat < (intervalOf 0 cap).toNat := by
      have hcap := half_toNat_lt cap
      have hpos : (intervalOf 0 cap).toNat ≠ 0 := fun hzero => hne (BitVec.eq_of_toNat_eq hzero)
      have hclock : Config.clockHz.toNat = 8000000 := rfl
      rw [toNat_intervalOf_zero] at hpos ⊢
      omega
    have hquotient : Config.clockHz / intervalOf 0 cap = 0 :=
      BitVec.eq_of_toNat_eq (by rw [BitVec.toNat_udiv, Nat.div_eq_of_lt hbig]; rfl)
    rw [hquotient]
    rfl

theorem ncap_eq_zero_of_ncapNext_ne_two {n : Fin 3} (h : ncapNext n ≠ 2) : n = 0 := by
  revert n
  decide

theorem ncapNext_ne_zero (n : Fin 3) : ncapNext n ≠ 0 := by
  revert n
  decide

theorem Sound.irqBody {t : State} (h : Sound s) (hexec : exec .irqBody s = .next t) : Sound t := by
  rcases exec_irqBody_cases hexec with rfl | ⟨hin, rfl⟩
  · exact h
  rw [irqBodyStep_eq]
  exact { h with
    running := fun _ => h.running (.inr (.inl hin))
    handler := nofun
    interval := rfl
    speed := rfl
    early := by
      refine ⟨fun hcount => ?_, fun hcount => absurd hcount (ncapNext_ne_zero s.ncap)⟩
      have hfirst : s.ncap = 0 := ncap_eq_zero_of_ncapNext_ne_two hcount
      have hstatus : statusDegenerate s = false := (h.early.1 (by simp [hfirst])).2
      have hcurrent : s.currentVal = 0 := h.early.2 hfirst
      simp only [hfirst, hcurrent, speedOf_intervalOf_zero]
      exact ⟨trivial, hstatus⟩ }

theorem Sound.tick {t : State} (h : Sound s) (hexec : exec .tick s = .next t) : Sound t := by
  rw [exec_tick_eq] at hexec
  obtain rfl := Host.Outcome.next.inj hexec
  exact { h with }

theorem Sound.edge {t : State} (h : Sound s) (hexec : exec .edge s = .next t) : Sound t := by
  rcases exec_edge_cases hexec with rfl | ⟨hrun, rfl⟩
  · exact h
  have hstarted : s.tstate ≠ .uninitialized := fun hstate => by simp [h.uninitialized.1 hstate] at hrun
  have hrunning : (if s.tstate = .configured then TState.running else s.tstate) = .running := by
    cases hstate : s.tstate with
    | uninitialized => exact absurd hstate hstarted
    | configured | running => rfl
  exact { h with
    uninitialized := by simp [hrunning, hrun]
    running := fun _ => hrunning }

theorem Sound.agentStep {t : State} {i : Instr} (h : Sound s) (hi : AgentInstr i) (hexec : exec i s = .next t) :
    Sound t := by
  cases hi with
  | request => exact h.request hexec
  | seq => exact h.seq hexec
  | irqAck => exact h.irqAck hexec
  | irqBody => exact h.irqBody hexec
  | tick => exact h.tick hexec
  | edge => exact h.edge hexec
  | reset =>
    obtain rfl := Host.Outcome.next.inj hexec
    exact { sound_reset with memory := h.memory, agents := h.agents }

end

/-! ### The trace (10_state R28, 70_reset R222) -/

/-- The trace and the events kept from before the last reset. -/
def traceView (s : State) := (s.out, s.sentBefore)

/-- Of the sequencer's steps only an emission reaches the trace: the head of the list, one event (10_state R28). -/
theorem traceView_of_seqEffect {s t : State} (h : SeqEffect s t) :
    traceView t = traceView s ∨
      ∃ e, t.out = s.out ++ [e] ∧ s.todo = e :: t.todo ∧ t.sentBefore = s.sentBefore := by
  cases h with
  | @emits e rest htodo => exact .inr ⟨e, by simp, by simpa using htodo, by simp⟩
  | _ => exact .inl rfl

theorem traceView_of_request {s t : State} {w : ReqWord} (h : exec (decodeRequest w) s = .next t) :
    traceView t = traceView s := by
  obtain ⟨op, arg, load, hload, hexec⟩ := exec_decodeRequest_eq w
  rcases acceptStep_next (hexec s ▸ h) with rfl | ⟨-, rfl⟩
  · rfl
  · obtain ⟨es, act, ptr, st, pos, heq, -⟩ := hload.effect op arg s
    rw [heq]
    rfl

/-- What an agent does to the trace: nothing, one event of the list at work, or the emptying by `RESET`. -/
theorem trace_of_agentInstr {s t : State} {i : Instr} (hi : AgentInstr i) (h : exec i s = .next t) :
    traceView t = traceView s ∨
      (∃ e, t.out = s.out ++ [e] ∧ s.todo = e :: t.todo ∧ t.sentBefore = s.sentBefore ∧
        s.busy = true ∧ s.inHandler = false) ∨
      (t.out = [] ∧ t.sentBefore = s.sentBefore ++ s.out) := by
  cases hi with
  | request => exact .inl (traceView_of_request h)
  | seq =>
    rcases exec_seq_cases h with rfl | ⟨hbusy, hhandler, heffect⟩
    · exact .inl rfl
    · rcases traceView_of_seqEffect heffect with hsame | ⟨e, hout, htodo, hsent⟩
      · exact .inl hsame
      · exact .inr (.inl ⟨e, hout, htodo, hsent, hbusy, hhandler⟩)
  | irqAck => rcases exec_irqAck_cases h with rfl | ⟨-, rfl⟩ <;> exact .inl rfl
  | irqBody =>
    rcases exec_irqBody_cases h with rfl | ⟨-, rfl⟩
    · exact .inl rfl
    · rw [irqBodyStep_eq]
      exact .inl rfl
  | tick =>
    rw [exec_tick_eq] at h
    obtain rfl := Host.Outcome.next.inj h
    exact .inl rfl
  | edge => rcases exec_edge_cases h with rfl | ⟨-, rfl⟩ <;> exact .inl rfl
  | reset =>
    obtain rfl := Host.Outcome.next.inj h
    exact .inr (.inr ⟨rfl, rfl⟩)

/-! ### A run of the sequencer alone (10_state R22) -/

theorem emitAll_setTodo (es xs : List Event) (s : State) :
    emitAll es { s with todo := xs } = { emitAll es s with todo := xs } := by
  simp only [emitAll_eq]

/-- The sequencer alone emits the list it is at, event by event, and stops at its end. -/
theorem seqSteps_todo_length {s : State} (hseq : canSeq s = true) :
    seqSteps s.todo.length s = { emitAll s.todo s with todo := [] } := by
  generalize htodo : s.todo = es
  induction es generalizing s with
  | nil =>
    change s = { s with todo := [] }
    rw [← htodo]
  | cons e es ih =>
    have hhead : seqStep s = emit e { s with todo := es } := by simp [seqStep, htodo]
    have hnext : canSeq (emit e { s with todo := es }) = true := by simpa [canSeq] using hseq
    calc seqSteps (es.length + 1) s
        = seqSteps es.length (emit e { s with todo := es }) := by rw [seqSteps, if_pos hseq, hhead]
      _ = { emitAll es (emit e { s with todo := es }) with todo := [] } := ih hnext (emit_todo _ e)
      _ = { emitAll (e :: es) s with todo := [] } := by
        rw [← emitAll, emitAll_setTodo]

/-! ### What every instruction can be, and what it does to the records (10_state R22) -/

/-- A request as the host offers it, or as a row of the table (10_state R22, 30_encoding R80). -/
def IsRequest (i : Instr) : Prop := ∃ w, i = .accept w ∨ encode i = some (.request w)

/-- Only a request runs as an `Accept` step: from reset it sets `busy`, and nothing else does. -/
theorem isRequest_of_acceptStep {i : Instr} {op : Nibble} {arg : Word} {load : State → State}
    (hload : RequestLoad load) (hexec : ∀ s, exec i s = acceptStep op arg load s) : IsRequest i := by
  have hbusy (t : State) (h : exec i State.reset = .next t) : t.busy = true := by
    rcases acceptStep_cases op arg load State.reset with ⟨-, heq⟩ | ⟨hheld, -⟩
    · obtain ⟨es, act, ptr, st, pos, heffect, -⟩ := hload.effect op arg State.reset
      rw [hexec, heq, heffect] at h
      obtain rfl := Host.Outcome.next.inj h
      rfl
    · cases hheld
  cases i
  case accept w => exact ⟨w, .inl rfl⟩
  case frameIdleCmd | frameStrobeCmd | frameIdleData | frameStrobeData | frameGeneral | cmdClear | cmdHome |
      cmdEntryMode | cmdDisplayOn | cmdFunctionSet | nibReset8 | nibSet4 | nibbleWrite | byteXfer | irqAck | irqBody |
      tick | edge | reset | seq =>
    cases hbusy _ rfl
  all_goals exact ⟨_, .inr rfl⟩

/-- All an instruction can do: nothing, what its own agent does, or a micro-sequence in place (00_scope R16). -/
inductive ExecEffect (s : State) : Instr → State → Prop where
  | held {i : Instr} : ExecEffect s i s
  | request {i : Instr} {op : Nibble} {arg : Word} {load : State → State} (hreq : IsRequest i)
      (hload : RequestLoad load) : ExecEffect s i (load (latchRequest op arg s))
  | inPlace {i : Instr} (es : List Event) : ExecEffect s i (emitAll es s)
  | seq {t : State} (heffect : SeqEffect s t) : ExecEffect s .seq t
  | irqAck : ExecEffect s .irqAck (enterHandler s)
  | irqBody : ExecEffect s .irqBody (irqBodyStep s)
  | tick (counter : Half) : ExecEffect s .tick { s with counter := counter }
  | edge : ExecEffect s .edge { s with
      cap := s.counter, pending := true, tstate := if s.tstate = .configured then .running else s.tstate }
  | reset : ExecEffect s .reset (hardwareReset s)

theorem execEffect_of_exec {i : Instr} {s t : State} (h : exec i s = .next t) : ExecEffect s i t := by
  cases runsAs i with
  | request hload hexec =>
    rcases acceptStep_next (hexec s ▸ h) with rfl | ⟨-, rfl⟩
    · exact .held
    · exact .request (isRequest_of_acceptStep hload hexec) hload
  | inPlace hexec =>
    rcases runInPlace_cases _ s with ⟨-, heq⟩ | ⟨-, heq⟩ <;>
      obtain rfl := Host.Outcome.next.inj ((hexec s).trans heq |>.symm.trans h)
    · exact .held
    · exact .inPlace _
  | seq =>
    rcases exec_seq_cases h with rfl | ⟨-, -, heffect⟩
    · exact .held
    · exact .seq heffect
  | irqAck =>
    rcases exec_irqAck_cases h with rfl | ⟨-, rfl⟩
    · exact .held
    · exact .irqAck
  | irqBody =>
    rcases exec_irqBody_cases h with rfl | ⟨-, rfl⟩
    · exact .held
    · exact .irqBody
  | tick =>
    rw [exec_tick_eq] at h
    obtain rfl := Host.Outcome.next.inj h
    exact .tick _
  | edge =>
    rcases exec_edge_cases h with rfl | ⟨-, rfl⟩
    · exact .held
    · exact .edge
  | reset =>
    obtain rfl := Host.Outcome.next.inj h
    exact .reset

/-! ### The status bits (10_state R47) -/

theorem status_of_seqEffect {s t : State} (h : SeqEffect s t) : t.status = s.status := by
  cases h with
  | emits => simp
  | _ => rfl

/-- All an instruction but `RESET` can do to the status bits: a request may set bit 1, `IRQ_BODY` bit 0. -/
theorem status_cases {i : Instr} {s t : State} (hi : i ≠ .reset) (h : exec i s = .next t) :
    t.status = s.status ∨ (IsRequest i ∧ t.status = s.status ||| 2) ∨ (i = .irqBody ∧ t.status = s.status ||| 1) := by
  cases execEffect_of_exec h with
  | request hreq hload =>
    obtain ⟨es, act, ptr, st, pos, heq, hst⟩ := hload.effect _ _ s
    rw [heq]
    exact hst.imp id fun hst => .inl ⟨hreq, hst⟩
  | inPlace es => exact .inl (by rw [emitAll_eq])
  | seq heffect => exact .inl (status_of_seqEffect heffect)
  | irqBody =>
    rw [irqBodyStep_eq]
    dsimp only
    split
    · exact .inr (.inr ⟨rfl, rfl⟩)
    · exact .inl rfl
  | reset => exact absurd rfl hi
  | held | irqAck | tick | edge => exact .inl rfl

/-! ### Nothing but `RESET` shuts a unit down (10_state R25, R26, R30 to R32) -/

/-- Nothing that is up in `s` is down in `t`. -/
def StaysUp (s t : State) : Prop :=
  (s.timerRun = true → t.timerRun = true) ∧ (s.capCfg = true → t.capCfg = true) ∧
  (s.capIe = true → t.capIe = true) ∧ (s.vecEn = true → t.vecEn = true) ∧ (s.gie = true → t.gie = true) ∧
  (s.csConfigured = true → t.csConfigured = true) ∧ (s.lcdMode = .ready → t.lcdMode = .ready) ∧
  (s.tstate = .running → t.tstate = .running) ∧ (s.tstate = .configured → t.tstate ≠ .uninitialized)

/-- The elements a shutdown would clear. -/
def upView (s : State) :=
  (s.timerRun, s.capCfg, s.capIe, s.vecEn, s.gie, s.csConfigured, s.lcdMode, s.tstate)

theorem staysUp_of_upView_eq {s t : State} (h : upView t = upView s) : StaysUp s t := by
  simp only [upView, Prod.mk.injEq] at h
  obtain ⟨hrun, hcfg, hie, hvec, hgie, hcs, hmode, hstate⟩ := h
  simp +contextual [StaysUp, *]

/-- A micro-sequence can only set the chip-select record (10_state R25). -/
theorem staysUp_emitAll (es : List Event) (s : State) : StaysUp s (emitAll es s) := by
  rw [emitAll_eq]
  have hcs : s.csConfigured = true → cfgAfter s.csConfigured es = true := fun h => (cfgAfter_iff _ es).2 (.inl h)
  exact ⟨id, id, id, id, id, hcs, id, id, by simp +contextual⟩

theorem staysUp_tachInitDone (s : State) : StaysUp s (tachInitDone s) := by
  refine ⟨fun _ => rfl, fun _ => rfl, fun _ => rfl, fun _ => rfl, fun _ => rfl, id, id, ?running, ?configured⟩ <;>
    simp +contextual

theorem staysUp_of_seqEffect {s t : State} (h : SeqEffect s t) : StaysUp s t := by
  cases h with
  | @emits e rest => exact staysUp_emitAll [e] { s with todo := rest }
  | initDone => exact ⟨id, id, id, id, id, id, fun _ => rfl, id, by simp +contextual⟩
  | tachDone => exact staysUp_tachInitDone s
  | _ => exact staysUp_of_upView_eq rfl

theorem staysUp_edge (s : State) : StaysUp s { s with
    cap := s.counter, pending := true, tstate := if s.tstate = .configured then .running else s.tstate } :=
  ⟨id, id, id, id, id, id, id, by simp +contextual, by simp +contextual⟩

theorem staysUp_exec {i : Instr} {s t : State} (hi : i ≠ .reset) (h : exec i s = .next t) : StaysUp s t := by
  cases execEffect_of_exec h with
  | request _ hload =>
    obtain ⟨es, act, ptr, st, pos, heq, -⟩ := hload.effect _ _ s
    rw [heq]
    exact staysUp_of_upView_eq rfl
  | inPlace es => exact staysUp_emitAll es s
  | seq heffect => exact staysUp_of_seqEffect heffect
  | irqBody =>
    rw [irqBodyStep_eq]
    exact staysUp_of_upView_eq rfl
  | edge => exact staysUp_edge s
  | reset => exact absurd rfl hi
  | held | irqAck | tick => exact staysUp_of_upView_eq rfl

/-! ### The character of a data transfer, written out (41_lcd R128) -/

theorem hiNibble_hiNibble (b : Byte) : hiNibble (hiNibble b) = b &&& 0xF0 := by
  rw [hiNibble, hiNibble, BitVec.and_assoc, BitVec.and_self]

theorem hiNibble_loNibble (b : Byte) : hiNibble (loNibble b) = b <<< 4 := by
  revert b
  decide

theorem dataEvents_eq_dataNine (b : Byte) : dataEvents b = Claims.dataNine b := by
  have hidle : controlBits Config.ctrlRs = 0x01 := rfl
  have hstrobe : (0x01 ||| enableBit : Byte) = 0x03 := rfl
  simp only [dataEvents, byteXferEvents, nibbleWriteEvents, hiNibble_hiNibble, hiNibble_loNibble, hidle,
    BitVec.or_assoc, hstrobe]
  rfl

theorem toNat_tick (c : Half) :
    (if c = 0 then Config.counterMax else c - 1).toNat = (c.toNat + 65535) % 65536 := by
  split
  · subst_vars
    rfl
  · rename_i hne
    have hlt := half_toNat_lt c
    simp [BitVec.toNat_sub]
    omega

end Sys2Proof.Machine

/-! ### The statements -/

namespace Sys2Proof.Claims

open Sys2Proof Sys2Proof.Machine

/-- Settles O58: the surroundings move on, and then each agent's step keeps the invariant. -/
theorem stepKeepsSound : Obligations.StepKeepsSound := by
  unfold Obligations.StepKeepsSound
  intro s t h hstep
  obtain ⟨req, strmem, agenda, draws, hmem, hcases⟩ := step_cases h.agents hstep
  have hmoved := h.withSurroundings req (hmem h.memory) agenda draws
  rcases hcases with rfl | ⟨i, hi, hexec⟩
  · exact hmoved
  · exact hmoved.agentStep hi hexec

/-- Settles O14, by the run of the sequencer over its list, whose effect is that of the micro-sequence. -/
theorem sequencerEmitsTheLoadedEvents : Obligations.SequencerEmitsTheLoadedEvents := by
  unfold Obligations.SequencerEmitsTheLoadedEvents
  intro s hwork
  refine ⟨critAfter s.lcdCrit s.todo, cfgAfter s.csConfigured s.todo, ?run, fun c => critAfter_of_level,
    cfgAfter_iff _ _⟩
  rw [seqSteps_todo_length ((canSeq_iff s).2 hwork), emitAll_eq]

/-- Settles O16: both dispatch on the operation code, and `LCD_HOME` is `LCD_COMMAND 0x02`. -/
theorem acceptRunsTheDecodedRequest : Obligations.AcceptRunsTheDecodedRequest :=
  exec_accept_eq_exec_decodeRequest

/-- Settles O48: each way to run a row of the main context asks that no handler run is in progress. -/
theorem handlerSuspendsTheMainContext : Obligations.HandlerSuspendsTheMainContext := by
  unfold Obligations.HandlerSuspendsTheMainContext
  intro i s hi hin
  cases runsAs i with
  | request _ hexec => rw [hexec, acceptStep_held ((canAccept_eq_false_iff s).2 (.inr hin))]
  | inPlace hexec => simp [hexec, runInPlace, hin]
  | seq => exact exec_seq_held (.inr hin)
  | irqAck => simp [exec, execIrqAck, canTakeInterrupt, hin]
  | irqBody | tick | edge | reset => simp [mainContext] at hi

/-- Settles O51: the surroundings keep the trace, and each agent does to it one of the three things named. -/
theorem traceGrowsOneEventAStep : Obligations.TraceGrowsOneEventAStep := by
  unfold Obligations.TraceGrowsOneEventAStep
  intro s t hp hstep
  obtain ⟨req, strmem, agenda, draws, -, rfl | ⟨i, hi, hexec⟩⟩ := step_cases hp hstep
  · exact .inl ⟨rfl, rfl⟩
  · exact (trace_of_agentInstr hi hexec).imp_left Prod.mk.inj

/-- Settles O52: both conditions are raised by an `or` into the status, each by its own instructions. -/
theorem statusBitsAreSticky : Obligations.StatusBitsAreSticky := by
  unfold Obligations.StatusBitsAreSticky
  refine ⟨rfl, fun s => ⟨_, rfl, rfl⟩, fun i s t hi hexec => ?_⟩
  rcases status_cases hi hexec with hst | ⟨hreq, hst⟩ | ⟨rfl, hst⟩ <;> rw [hst]
  · exact ⟨id, id, by simp +contextual, by simp +contextual⟩
  · exact ⟨by simp +contextual, by simp, by simp +contextual, fun _ _ => hreq⟩
  · exact ⟨by simp, by simp +contextual, fun _ _ => rfl, by simp +contextual⟩

/-- Settles O53, by the ways an instruction runs. -/
theorem nothingButResetShutsDown : Obligations.NothingButResetShutsDown := by
  unfold Obligations.NothingButResetShutsDown
  intro i s t hi hexec
  exact staysUp_exec hi hexec

/-- Settles O13: the head event's kind says which record it writes. -/
theorem seqEmitsTheHeadEvent : Obligations.SeqEmitsTheHeadEvent := by
  unfold Obligations.SeqEmitsTheHeadEvent
  intro s
  refine ⟨fun hwork rest => ?_, exec_seq_held⟩
  have hhead {e : Event} (htodo : s.todo = e :: rest) : exec .seq s = .next (emit e { s with todo := rest }) := by
    rw [exec_seq_of_canSeq ((canSeq_iff s).2 hwork), seqStep, htodo]
  exact ⟨hhead, fun _ => hhead, fun _ => hhead, hhead, hhead⟩

/-- Settles O15: the word's own fields are latched, and what is loaded is the sequencer's. -/
theorem acceptLatchesTheRequest : Obligations.AcceptLatchesTheRequest := by
  unfold Obligations.AcceptLatchesTheRequest
  intro w s
  obtain ⟨load, hload, hexec⟩ := exec_accept_eq_acceptStep w
  refine ⟨fun hbusy hhandler => ?_, fun hheld => ?_⟩
  · obtain ⟨es, act, ptr, st, pos, heq, -⟩ := hload.requestLoad.effect (reqOp w) (reqArg w) s
    have hacc : canAccept s = true := (canAccept_iff s).2 ⟨hbusy, hhandler⟩
    rw [hexec, acceptStep, if_pos hacc, heq]
    exact ⟨_, rfl, rfl, rfl, rfl, rfl, rfl, rfl, rfl, rfl, rfl, rfl, rfl, rfl⟩
  · rw [hexec, acceptStep_held ((canAccept_eq_false_iff s).2 hheld)]

/-- Settles O32: the string loop is at work where no event is left, and the byte read decides its branch. -/
theorem stringLoopReadsOneByte : Obligations.StringLoopReadsOneByte := by
  unfold Obligations.StringLoopReadsOneByte
  intro s hwork htodo hact
  have hloop : exec .seq s = .next (stringStep s) := by
    rw [exec_seq_of_canSeq ((canSeq_iff s).2 hwork), seqStep, htodo]
    simp [hact]
  rw [hloop]
  refine ⟨fun hread => ?_, fun hread => ?_⟩
  · rw [stringStep_of_char hread, dataEvents_eq_dataNine]
  · rw [stringStep_of_end hread]

/-- Settles O39: the counter goes down by one modulo 2^16 while the timer runs. -/
theorem tickCountsDown : Obligations.TickCountsDown := by
  unfold Obligations.TickCountsDown
  intro s
  refine ⟨_, exec_tick_eq s, rfl, fun hrun => ?_, fun hrun => ?_⟩
  · simp [hrun]
  · simpa [hrun] using toNat_tick s.counter

/-- Settles O56: the reset state is written out with these values (10_state R49). -/
theorem resetStateHoldsTheListedValues : Obligations.ResetStateHoldsTheListedValues := by
  unfold Obligations.ResetStateHoldsTheListedValues
  decide

/-- Settles O57, clause by clause. -/
theorem resetIsSound : Obligations.ResetIsSound := sound_reset

end Sys2Proof.Claims
end
section
/-! The statements of 20_memory: the string space, which the platform alone writes (R60, R61, R69), and the critical
section, in which the handler does not start (R70). -/

namespace Sys2Proof.Machine

/-! ### What a platform write does to a read (20_memory R61, R69) -/

theorem memRead_store_same (m : Memory) (a : Addr) (b : Byte) : memRead (Memory.store m a.toNat b) a = b :=
  memRead_listed _ a b (lookup_store_same m a.toNat b)

theorem memRead_store_other (m : Memory) {a a' : Addr} (b : Byte) (h : a' ≠ a) :
    memRead (Memory.store m a.toNat b) a' = memRead m a' := by
  have hne : a'.toNat ≠ a.toNat := fun heq => h (BitVec.eq_of_toNat_eq heq)
  rw [memRead, memRead, lookup_store_other m _ _ b hne]

/-- A listed platform write is the whole of its step (log 1, 5). -/
theorem step_strWrite {s : State} {a : Addr} {b : Byte} {rest : List Choice} (hp : s.probe = [])
    (ha : s.agenda = .strWrite a b :: rest) :
    step s = .next { s with agenda := rest, strmem := Memory.store s.strmem a.toNat b } :=
  step_of_move_outside hp ha rfl

/-! ### No instruction writes the string space (20_memory R60) -/

theorem strmem_of_seqEffect {s t : State} (h : SeqEffect s t) : t.strmem = s.strmem := by
  cases h with
  | emits => simp
  | _ => rfl

theorem strmem_exec {i : Instr} {s t : State} (h : exec i s = .next t) : t.strmem = s.strmem := by
  cases execEffect_of_exec h with
  | request _ hload =>
    obtain ⟨es, act, ptr, st, pos, heq, -⟩ := hload.effect _ _ s
    rw [heq]
  | inPlace es => rw [emitAll_eq]
  | seq heffect => exact strmem_of_seqEffect heffect
  | irqBody => rw [irqBodyStep_eq]
  | held | irqAck | tick | edge | reset => rfl

/-! ### Only a taken interrupt starts the handler (60_exceptions R196, R199) -/

theorem inHandler_of_seqEffect {s t : State} (h : SeqEffect s t) : t.inHandler = s.inHandler := by
  cases h with
  | emits => simp
  | _ => rfl

/-- An instruction keeps the handler as it was, ends its run, or is an `IRQ_ACK` that may take the interrupt. -/
theorem inHandler_exec_cases {i : Instr} {s t : State} (h : exec i s = .next t) :
    t.inHandler = s.inHandler ∨ t.inHandler = false ∨ (i = .irqAck ∧ canTakeInterrupt s = true) := by
  cases execEffect_of_exec h with
  | request _ hload =>
    obtain ⟨es, act, ptr, st, pos, heq, -⟩ := hload.effect _ _ s
    exact .inl (by rw [heq])
  | inPlace es => exact .inl (by rw [emitAll_eq])
  | seq heffect => exact .inl (inHandler_of_seqEffect heffect)
  | irqAck =>
    rcases exec_irqAck_cases h with hheld | ⟨htake, -⟩
    · exact .inl (congrArg State.inHandler hheld)
    · exact .inr (.inr ⟨rfl, htake⟩)
  | irqBody => exact .inr (.inl (by rw [irqBodyStep_eq]))
  | reset => exact .inr (.inl rfl)
  | held | tick | edge => exact .inl rfl

/-- Inside a critical section the interrupt is not taken (60_exceptions R196), so no instruction starts the handler. -/
theorem inHandler_exec_of_lcdCrit {i : Instr} {s t : State} (hcrit : s.lcdCrit = true) (hout : s.inHandler = false)
    (h : exec i s = .next t) : t.inHandler = false := by
  rcases inHandler_exec_cases h with hsame | hended | ⟨-, htake⟩
  · exact hsame.trans hout
  · exact hended
  · obtain ⟨-, -, -, -, hopen, -⟩ := (canTakeInterrupt_iff s).1 htake
    cases hcrit.symm.trans hopen

end Sys2Proof.Machine

/-! ### The statements -/

namespace Sys2Proof.Claims

open Sys2Proof Sys2Proof.Machine

/-- Settles O47: the surroundings move on and touch neither the section nor the handler, and no instruction starts the
handler inside a section. -/
theorem criticalSectionHoldsTheHandler : Obligations.CriticalSectionHoldsTheHandler := by
  unfold Obligations.CriticalSectionHoldsTheHandler
  intro s t hp hcrit hout hstep
  obtain ⟨req, strmem, agenda, draws, -, rfl | ⟨i, -, hexec⟩⟩ := step_cases hp hstep
  · exact hout
  · exact inHandler_exec_of_lcdCrit (s := withSurroundings req strmem agenda draws s) hcrit hout hexec

/-- Settles O54, by the ways an instruction runs and by the laws of the one write. -/
theorem onlyThePlatformWritesMemory : Obligations.OnlyThePlatformWritesMemory := by
  unfold Obligations.OnlyThePlatformWritesMemory
  refine ⟨fun _ _ _ => strmem_exec, fun s a b _ hp ha => ⟨_, step_strWrite hp ha, ?same, ?other, ?form⟩⟩
  case same => exact memRead_store_same s.strmem a b
  case other => exact fun _ hne => memRead_store_other s.strmem b hne
  case form => exact wf_store s.strmem a b

end Sys2Proof.Claims
end
section
/-! The statements of 30_encoding: the decoder and the encoder (R80 to R89, R94), the rows below the request port (R85 to
R89), the ignored bits of `arg` (R82), the reserved codes (R83) and the receiver view of what the operations send (R91). -/

namespace Sys2Proof

/-! ### Decoding what was encoded (30_encoding R80 to R89) -/

/-- The one split of a request row: `LCD_COMMAND 0x02` is read as `LCD_HOME` (30_encoding R94, log 8). -/
theorem decodeRequest_command (hi : BitVec 24) (b : Byte) :
    decodeRequest (requestWord 0x2 (byteArg hi b)) = if b = Config.cmdHome then .lcdHome hi else .lcdCommand hi b := by
  simp only [decodeRequest, reqOp_requestWord, reqArg_requestWord, argHi_byteArg, argByte_byteArg]
  rfl

theorem decodeRequest_data (hi : BitVec 24) (b : Byte) :
    decodeRequest (requestWord 0x3 (byteArg hi b)) = .lcdData hi b := by
  simp only [decodeRequest, reqOp_requestWord, reqArg_requestWord, argHi_byteArg, argByte_byteArg]
  rfl

/-- A frame byte is its fields (30_encoding R85). -/
theorem frameByte_eta (f : Byte) :
    frameByte (f.extractLsb' 4 4) (f.getLsbD 3) (f.getLsbD 2) (f.getLsbD 1) (f.getLsbD 0) = f := by
  revert f
  decide

/-- Every well-formed instruction is read back from its word, format by format. -/
theorem decode_of_encode {i : Instr} {w : TableWord} (hwf : i.wellFormed = true) (h : encode i = some w) :
    decode w = .ok i := by
  cases i
  case lcdInit | lcdClear | lcdOutString | lcdOutUDec | lcdOutUHex | lcdOutUFix | tachInit | tachGetInterval |
      reservedA | reservedB | reservedC | reservedD | reservedE | reservedF =>
    obtain rfl := Option.some.inj h
    simp only [decode, decodeRequest, reqOp_requestWord, reqArg_requestWord]
    rfl
  case lcdCommand hi b =>
    have hb : b ≠ Config.cmdHome := by simpa [Instr.wellFormed] using hwf
    obtain rfl := Option.some.inj h
    rw [decode, decodeRequest_command, if_neg hb]
  case lcdHome hi =>
    obtain rfl := Option.some.inj h
    rw [decode, decodeRequest_command, if_pos rfl]
  case lcdData hi b =>
    obtain rfl := Option.some.inj h
    rw [decode, decodeRequest_data]
  case frameIdleCmd | frameStrobeCmd | frameIdleData | frameStrobeData =>
    obtain rfl := Option.some.inj h
    rw [decode, decodeFrame_frameByte]
  case frameGeneral d k3 k2 en rs =>
    have hk : (k3 || k2) = true := hwf
    obtain rfl := Option.some.inj h
    rw [decode, decodeFrame_frameByte]
    match k3, k2 with
    | true, _ | false, true => rfl
  case cmdClear | cmdHome | cmdEntryMode | cmdDisplayOn | cmdFunctionSet | nibReset8 | nibSet4 =>
    obtain rfl := Option.some.inj h
    rfl
  all_goals cases h

/-! ### Encoding what was decoded -/

theorem encode_decodeRequest (w : ReqWord) :
    (decodeRequest w).wellFormed = true ∧ encode (decodeRequest w) = some (.request w) := by
  rw [← requestWord_eta w]
  generalize reqOp w = op
  generalize reqArg w = arg
  match op with
  | 0x2 =>
    rw [← byteArg_eta arg, decodeRequest_command]
    by_cases hb : argByte arg = Config.cmdHome
    · rw [if_pos hb, hb]
      exact ⟨rfl, rfl⟩
    · rw [if_neg hb]
      exact ⟨bne_iff_ne.2 hb, rfl⟩
  | 0x3 =>
    rw [← byteArg_eta arg, decodeRequest_data]
    exact ⟨rfl, rfl⟩
  | 0x0#4 | 0x1#4 | 0x4#4 | 0x5#4 | 0x6#4 | 0x7#4 | 0x8#4 | 0x9#4 | 0xA#4 | 0xB#4 | 0xC#4 | 0xD#4 | 0xE#4 | 0xF#4 =>
    simp only [decodeRequest, reqOp_requestWord, reqArg_requestWord]
    exact ⟨rfl, rfl⟩
  | ⟨⟨n + 16, hn⟩⟩ => exact absurd hn (by omega)

theorem encode_decodeFrame (f : Byte) :
    (decodeFrame f).wellFormed = true ∧ encode (decodeFrame f) = some (.frame f) := by
  rw [← frameByte_eta f]
  generalize f.extractLsb' 4 4 = d, f.getLsbD 3 = k3, f.getLsbD 2 = k2, f.getLsbD 1 = en, f.getLsbD 0 = rs
  rw [decodeFrame_frameByte]
  match k3, k2, en, rs with
  | false, false, false, false | false, false, true, false | false, false, false, true | false, false, true, true =>
    exact ⟨rfl, rfl⟩
  | true, _, _, _ | false, true, _, _ => exact ⟨rfl, rfl⟩

/-- The seven codes are the only ones that decode (30_encoding R88, R89). -/
theorem encode_of_decodeCode {c : Byte} {i : Instr} (h : decodeCode c = .ok i) :
    i.wellFormed = true ∧ encode i = some (.code c) := by
  unfold decodeCode at h
  split_ifs at h
  all_goals
    subst c
    obtain rfl := Except.ok.inj h
    exact ⟨rfl, rfl⟩

end Sys2Proof

namespace Sys2Proof.Machine

/-! ### A micro-sequence run in place, written out (30_encoding R85 to R89) -/

theorem runInPlace_frame {s : State} (h : s.inHandler = false) (f : Byte) :
    runInPlace [.tx f] s = .next { s with out := s.out ++ [.tx f] } :=
  runInPlace_run [.tx f] s h

theorem frameByte_eq_ofNat (d : Nibble) (k3 k2 en rs : Bool) : frameByte d k3 k2 en rs =
    BitVec.ofNat 8 (16 * d.toNat + 8 * k3.toNat + 4 * k2.toNat + 2 * en.toNat + rs.toNat) := by
  revert d k3 k2 en rs
  decide

theorem runInPlace_nibbleWrite {s : State} (h : s.inHandler = false) (v : Byte) (c : Nibble) :
    runInPlace (nibbleWriteEvents v c) s = .next { s with out := s.out ++ nibbleWriteEvents v c } :=
  runInPlace_run (nibbleWriteEvents v c) s h

/-- The settle delay is decided by the value of the code (41_lcd R127). -/
theorem commandDelayMs_eq (b : Byte) : commandDelayMs b = if b.toNat < 4 then 2 else 1 := rfl

theorem commandEvents_eq_commandNine (b : Byte) : commandEvents b = Claims.commandNine b := by
  have hcontrol (v : Byte) : v ||| controlBits 0x0 = v := BitVec.or_zero
  simp only [commandEvents, byteXferEvents, nibbleWriteEvents, hiNibble_hiNibble, hiNibble_loNibble, hcontrol,
    commandDelayMs_eq]
  rfl

theorem runInPlace_command {s : State} (h : s.inHandler = false) (b : Byte) :
    runInPlace (commandEvents b) s = .next { s with lcdCrit := false, out := s.out ++ Claims.commandNine b } := by
  rw [runInPlace_run _ s h, commandEvents_eq_commandNine]
  rfl

/-! ### An accepted request (10_state R22, 30_encoding R82) -/

section

variable {s : State}

theorem canAccept_of_idle (h : Claims.Idle s) : canAccept s = true := by
  obtain ⟨hbusy, hhandler, -⟩ := h
  exact (canAccept_iff s).2 ⟨hbusy, hhandler⟩

theorem acceptStep_accepted (h : canAccept s = true) (op : Nibble) (arg : Word) (load : State → State) :
    acceptStep op arg load s = .next (load (latchRequest op arg s)) := by
  rw [acceptStep, if_pos h]

/-- The argument of a request whose load does not look at it is only latched. -/
theorem acceptStep_latches_arg (h : canAccept s = true) (op : Nibble) (arg arg' : Word) {load : State → State}
    (hload : ∀ t : State, load { t with curArg := arg' } = { load t with curArg := arg' }) :
    ∃ t, acceptStep op arg load s = .next t ∧ acceptStep op arg' load s = .next { t with curArg := arg' } := by
  refine ⟨_, acceptStep_accepted h op arg load, ?_⟩
  rw [acceptStep_accepted h, ← hload]
  rfl

/-- What an idle block is once a request has loaded `es`. -/
theorem loadTodo_latchRequest (h : Claims.Idle s) (op : Nibble) (arg : Word) (es : List Event) :
    loadTodo es (latchRequest op arg s) = { s with busy := true, curOp := op, curArg := arg, todo := es } := by
  obtain ⟨-, -, hact⟩ := h
  rw [loadTodo, ← hact]
  rfl

theorem loadIllegal_latchRequest (h : Claims.Idle s) (op : Nibble) (arg : Word) :
    loadIllegal (latchRequest op arg s) =
      { s with busy := true, curOp := op, curArg := arg, todo := [], status := s.status ||| 0b10 } := by
  rw [loadIllegal, loadTodo_latchRequest h]
  rfl

/-! ### The completing step (10_state R22 (c)) -/

/-- The operation codes whose completing step does no more than signal `done`: all but those of `LCD_INIT`, `TACH_INIT`
and `TACH_GETINTERVAL` (10_state R22 (c)). -/
abbrev OnlySignalsDone (op : Nibble) : Prop := op ≠ 0x0 ∧ op ≠ 0x8 ∧ op ≠ 0x9

theorem seqStep_eq_signalDone (hop : OnlySignalsDone s.curOp) (htodo : s.todo = []) (hact : s.strActive = false) :
    seqStep s = signalDone s := by
  obtain ⟨hinit, htach, hget⟩ := hop
  have hplain : completionEffect s = s := by
    unfold completionEffect
    split
    case h_1 h => exact absurd (BitVec.eq_of_toNat_eq h) hinit
    case h_2 h => exact absurd (BitVec.eq_of_toNat_eq h) htach
    case h_3 h => exact absurd (BitVec.eq_of_toNat_eq h) hget
    case h_4 => rfl
  rcases seqStep_cases s with ⟨e, rest, hcons, -⟩ | ⟨-, hon, -⟩ | ⟨-, -, htorn, -⟩ | ⟨-, -, -, hdone⟩
  · cases htodo.symm.trans hcons
  · cases hact.symm.trans hon
  · simp only [tornReadLeft, Bool.and_eq_true, beq_iff_eq] at htorn
    obtain ⟨⟨hop, -⟩, -⟩ := htorn
    exact absurd hop hget
  · rw [hdone, completeStep, hplain]

theorem seqSteps_one_eq_signalDone (hseq : canSeq s = true) (hop : OnlySignalsDone s.curOp) (htodo : s.todo = [])
    (hact : s.strActive = false) : seqSteps 1 s = signalDone s :=
  (if_pos hseq).trans (seqStep_eq_signalDone hop htodo hact)

theorem seqSteps_add (m n : Nat) (s : State) : seqSteps (m + n) s = seqSteps n (seqSteps m s) := by
  induction m generalizing s with
  | zero => rw [Nat.zero_add]; rfl
  | succ m ih => rw [Nat.succ_add]; exact ih _

/-- An operation whose events are loaded emits them all and is done. -/
theorem seqSteps_to_done (hseq : canSeq s = true) (hop : OnlySignalsDone s.curOp) (hact : s.strActive = false) :
    seqSteps (s.todo.length + 1) s = signalDone { emitAll s.todo s with todo := [] } := by
  rw [seqSteps_add, seqSteps_todo_length hseq, emitAll_eq]
  exact seqSteps_one_eq_signalDone hseq hop rfl hact

/-- A request that loads a list which ends outside critical sections and leaves the chip-select record alone runs to
`afterOperation`. -/
theorem request_runs_to_done (h : Claims.Idle s) {op : Nibble} (hop : OnlySignalsDone op) (arg : Word)
    {es : List Event} (hcrit : critAfter s.lcdCrit es = false) (hcfg : cfgAfter s.csConfigured es = s.csConfigured) :
    seqSteps (es.length + 1) (loadTodo es (latchRequest op arg s)) = Claims.afterOperation op arg es s := by
  have ⟨_, hhandler, _⟩ := h
  have hseq : canSeq (loadTodo es (latchRequest op arg s)) = true := (canSeq_iff _).2 ⟨rfl, hhandler⟩
  calc seqSteps (es.length + 1) (loadTodo es (latchRequest op arg s))
      = signalDone { emitAll es (loadTodo es (latchRequest op arg s)) with todo := [] } :=
        seqSteps_to_done hseq hop rfl
    _ = Claims.afterOperation op arg es s := by
      rw [loadTodo_latchRequest h, emitAll_eq, hcrit, hcfg]
      rfl

/-- The command bytes of an idle block: accepted, sent and done (41_lcd R127, R129). -/
theorem command_runs_to_done (h : Claims.Idle s) {op : Nibble} (hop : OnlySignalsDone op) (arg : Word) (b : Byte) :
    seqSteps 10 (loadTodo (commandEvents b) (latchRequest op arg s)) =
      Claims.afterOperation op arg (Claims.commandNine b) s := by
  rw [commandEvents_eq_commandNine]
  exact request_runs_to_done (es := Claims.commandNine b) h hop arg rfl rfl

/-- A request that selects nothing raises `IllegalOp`, and the next `Seq` completes it (30_encoding R83). -/
theorem illegal_request_completes (h : Claims.Idle s) {op : Nibble} (hop : OnlySignalsDone op) (arg : Word) :
    ∃ t, acceptStep op arg loadIllegal s = .next t ∧
      t = { s with busy := true, curOp := op, curArg := arg, todo := [], status := s.status ||| 0b10 } ∧
      exec .seq t = .next { t with busy := false, doneCount := s.doneCount + 1 } := by
  have ⟨_, hhandler, _⟩ := h
  have hseq : canSeq (loadIllegal (latchRequest op arg s)) = true := (canSeq_iff _).2 ⟨rfl, hhandler⟩
  refine ⟨_, acceptStep_accepted (canAccept_of_idle h) op arg loadIllegal, loadIllegal_latchRequest h op arg, ?_⟩
  rw [exec_seq_of_canSeq hseq, seqStep_eq_signalDone hop rfl rfl]
  rfl

end

/-! ### What the receiver takes from a trace (30_encoding R91) -/

/-- A trace that, entered with enable low, delivers `ps` and leaves enable low, whatever follows it. -/
def Delivers (es : List Event) (ps : List (Bool × Nibble)) : Prop :=
  ∀ rest, receiverFrom false (es ++ rest) = ps ++ receiverFrom false rest

/-- The two pairs of a byte: the upper nibble, then the lower (41_lcd R125). -/
def bytePairs (rs : Bool) (b : Byte) : List (Bool × Nibble) := [(rs, b.extractLsb' 4 4), (rs, b.extractLsb' 0 4)]

theorem Delivers.receiverView {es : List Event} {ps : List (Bool × Nibble)} (h : Delivers es ps) :
    receiverView es = ps := by
  simpa [Machine.receiverView, receiverFrom] using h []

theorem Delivers.nil : Delivers [] [] := fun _ => rfl

theorem Delivers.append {xs ys : List Event} {ps qs : List (Bool × Nibble)} (hx : Delivers xs ps)
    (hy : Delivers ys qs) : Delivers (xs ++ ys) (ps ++ qs) := fun rest => by
  rw [List.append_assoc, hx, hy, List.append_assoc]

theorem Delivers.csInit : Delivers [.csInit] [] := fun _ => rfl
theorem Delivers.delay (n : Nat) : Delivers [.delay n] [] := fun _ => rfl
theorem Delivers.critEnter : Delivers [.critEnter] [] := fun _ => rfl
theorem Delivers.critExit : Delivers [.critExit] [] := fun _ => rfl

theorem Delivers.optionalDelay (n : Nat) : Delivers (optionalDelay n) [] := by
  unfold Machine.optionalDelay
  split
  · exact .nil
  · exact .delay n

/-- A frame of a nibble transfer carries the data nibble in bits 7:4 and no other bit of the data. -/
theorem hiNibble_bits (v : Byte) : (hiNibble v).getLsbD 0 = false ∧ (hiNibble v).getLsbD 1 = false ∧
    (hiNibble v).extractLsb' 4 4 = v.extractLsb' 4 4 := by
  revert v
  decide

/-- The control bits keep the register-select, clear the enable bit and leave the data nibble alone (41_lcd R121). -/
theorem controlBits_bits (c : Nibble) : (controlBits c).getLsbD 0 = c.getLsbD 0 ∧ (controlBits c).getLsbD 1 = false ∧
    (controlBits c).extractLsb' 4 4 = 0 := by
  revert c
  decide

theorem enableBit_bits : enableBit.getLsbD 0 = false ∧ enableBit.getLsbD 1 = true ∧ enableBit.extractLsb' 4 4 = 0 := by
  decide

/-- Of a nibble transfer the receiver latches one pair, at the rise of enable. -/
theorem Delivers.nibbleWrite (v : Byte) (c : Nibble) :
    Delivers (nibbleWriteEvents v c) [(c.getLsbD 0, v.extractLsb' 4 4)] := fun rest => by
  obtain ⟨hv0, hv1, hv⟩ := hiNibble_bits v
  obtain ⟨hc0, hc1, hc⟩ := controlBits_bits c
  obtain ⟨he0, he1, he⟩ := enableBit_bits
  simp only [nibbleWriteEvents, List.cons_append, List.nil_append, receiverFrom, BitVec.getLsbD_or,
    BitVec.extractLsb'_or, hv0, hv1, hv, hc0, hc1, hc, he0, he1, he]
  simp

theorem Delivers.byteXfer (b : Byte) (c : Nibble) : Delivers (byteXferEvents b c) (bytePairs (c.getLsbD 0) b) := by
  obtain ⟨-, -, hhi⟩ := hiNibble_bits b
  have hlo : (loNibble b).extractLsb' 4 4 = b.extractLsb' 0 4 := by
    revert b
    decide
  have hpair := (nibbleWrite (hiNibble b) c).append (nibbleWrite (loNibble b) c)
  rw [hhi, hlo] at hpair
  exact critEnter.append (hpair.append critExit)

theorem Delivers.command (b : Byte) : Delivers (commandEvents b) (bytePairs false b) :=
  (byteXfer b 0x0).append (delay (commandDelayMs b))

theorem Delivers.data (b : Byte) : Delivers (dataEvents b) (bytePairs true b) :=
  (byteXfer b Config.ctrlRs).append (delay Config.tDataMs)

theorem Delivers.text (cs : List Byte) : Delivers (textEvents cs) (cs.flatMap (bytePairs true)) := by
  induction cs with
  | nil => exact .nil
  | cons c cs ih => exact (Delivers.data c).append ih

/-- The pairs of a byte join into the byte. -/
theorem joinNibbles_bytePairs_append (rs : Bool) (b : Byte) (ps : List (Bool × Nibble)) :
    joinNibbles (bytePairs rs b ++ ps) = (rs, b) :: joinNibbles ps := by
  have hjoin : b.extractLsb' 4 4 ++ b.extractLsb' 0 4 = b := by
    revert b
    decide
  simp [bytePairs, joinNibbles, hjoin]

theorem joinNibbles_receiverView_textEvents (cs : List Byte) :
    joinNibbles (receiverView (textEvents cs)) = cs.map fun c => (true, c) := by
  rw [(Delivers.text cs).receiverView]
  induction cs with
  | nil => rfl
  | cons c cs ih => rw [List.flatMap_cons, joinNibbles_bytePairs_append, ih, List.map_cons]

/-! ### What `LCD_INIT` delivers, and how long it waits (40_lcd_init R112) -/

/-- The nibbles of `LCD_INIT`, all of them instructions. -/
theorem Delivers.init (p : Nat) : Delivers (initEvents p)
    ([3, 3, 3, 2, 2, 8, 0, 6, 0, 1, 0, 0xF].map fun d => (false, d)) := by
  unfold initEvents
  exact csInit.append (delay _) |>.append (nibbleWrite _ 0) |>.append (delay _) |>.append (nibbleWrite _ 0)
    |>.append (delay _) |>.append (nibbleWrite _ 0) |>.append (delay _) |>.append (nibbleWrite _ 0)
    |>.append (optionalDelay p) |>.append (command _) |>.append (command _) |>.append (command _)
    |>.append (command _)

theorem minDelayMs_append (xs ys : List Event) : minDelayMs (xs ++ ys) = minDelayMs xs + minDelayMs ys := by
  induction xs with
  | nil => simp [minDelayMs]
  | cons x xs ih => cases x <;> simp [minDelayMs, ih, Nat.add_assoc]

theorem minDelayMs_nibbleWriteEvents (v : Byte) (c : Nibble) : minDelayMs (nibbleWriteEvents v c) = 0 := rfl

theorem minDelayMs_commandEvents (b : Byte) : minDelayMs (commandEvents b) = commandDelayMs b := rfl

theorem minDelayMs_optionalDelay (n : Nat) : minDelayMs (optionalDelay n) = n := by
  unfold optionalDelay
  split
  · subst_vars
    rfl
  · rfl

theorem minDelayMs_initEvents (p : Nat) : minDelayMs (initEvents p) = 32 + p := by
  simp only [initEvents, minDelayMs_append, minDelayMs_nibbleWriteEvents, minDelayMs_commandEvents,
    minDelayMs_optionalDelay]
  change 27 + p + 1 + 1 + 2 + 1 = 32 + p
  omega

/-! ### The characters of a number are its ASCII digits (30_encoding R92, 42_lcd R145 to R150) -/

/-- The source's recursion gives the digits, most significant first, where the depth bound is enough. -/
theorem digitsUpTo_eq {fuel n r : Nat} (hr : 1 < r) (hfuel : n < r ^ fuel) (hpos : 0 < fuel) :
    digitsUpTo fuel n r = if n = 0 then [0] else (Nat.digits r n).reverse := by
  induction fuel generalizing n with
  | zero => cases hpos
  | succ fuel ih =>
    by_cases hlt : n < r
    · rw [digitsUpTo, if_pos hlt]
      split
      · subst_vars
        rfl
      · rw [Nat.digits_of_lt r n ‹_› hlt]
        rfl
    · have hn : 0 < n := by omega
      have hdiv : n / r < r ^ fuel := Nat.div_lt_of_lt_mul (by rwa [← Nat.pow_succ'])
      have hdiv0 : n / r ≠ 0 := (Nat.div_pos (Nat.le_of_not_lt hlt) (by omega)).ne'
      have hfuel0 : 0 < fuel := Nat.pos_of_ne_zero fun h => by
        rw [h, Nat.pow_zero] at hdiv
        exact hdiv0 (Nat.lt_one_iff.1 hdiv)
      rw [digitsUpTo, if_neg hlt, ih hdiv hfuel0, if_neg hdiv0, if_neg hn.ne', Nat.digits_def' hr hn,
        List.reverse_cons]

theorem decimalText_eq_decimalAscii (n : Word) : decimalText n = Claims.decimalAscii n.toNat := by
  have hdigits : digits n 10 = if n.toNat = 0 then [0] else (Nat.digits 10 n.toNat).reverse :=
    digitsUpTo_eq (by decide) (n.isLt.trans (by decide)) (by decide)
  have hchar (d : Nat) : Config.ch0 + BitVec.ofNat 8 d = BitVec.ofNat 8 (48 + d) := (BitVec.ofNat_add 48 d).symm
  simp only [decimalText, Claims.decimalAscii, hdigits, hchar]
  split <;> rfl

theorem digitChar_eq : digitChar = fun d => BitVec.ofNat 8 (if d < 10 then 48 + d else 55 + d) := by
  funext d
  unfold digitChar
  split
  · exact (BitVec.ofNat_add 48 d).symm
  · have hd : 55 + d = 65 + (d - 10) := by omega
    rw [hd, BitVec.ofNat_add]
    rfl

theorem hexText_eq_hexAscii (n : Word) : hexText n = Claims.hexAscii n.toNat := by
  have hdigits : digits n 16 = if n.toNat = 0 then [0] else (Nat.digits 16 n.toNat).reverse :=
    digitsUpTo_eq (by decide) (n.isLt.trans (by decide)) (by decide)
  simp only [hexText, Claims.hexAscii, hdigits, digitChar_eq]
  split <;> rfl

theorem decimalAscii_digit {d : Nat} (h : d < 10) : Claims.decimalAscii d = [BitVec.ofNat 8 (48 + d)] := by
  unfold Claims.decimalAscii
  split
  · subst_vars
    rfl
  · rw [Nat.digits_of_lt 10 d ‹_› h]
    rfl

theorem fixedText_eq_fixedAscii (n : Word) : fixedText n = Claims.fixedAscii n.toNat := by
  have hdiv : (n / 10).toNat = n.toNat / 10 := BitVec.toNat_udiv
  have hmod : (n % 10).toNat = n.toNat % 10 := BitVec.toNat_umod
  have hover : n > Config.uFixMax ↔ 9999 < n.toNat := Iff.rfl
  simp only [fixedText, Claims.fixedAscii, decimalText_eq_decimalAscii, hdiv, hmod, hover,
    decimalAscii_digit (Nat.mod_lt n.toNat (by decide : 10 > 0))]
  rfl

/-! ### A run of the string loop (42_lcd R141, R142) -/

theorem addr_add_ofNat_succ (a : Addr) (k : Nat) : a + BitVec.ofNat 32 (k + 1) = a + 1 + BitVec.ofNat 32 k := by
  rw [Nat.add_comm, BitVec.ofNat_add]
  exact (BitVec.add_assoc a 1 _).symm

theorem memRead_add_zero (m : Memory) (a : Addr) : memRead m (a + BitVec.ofNat 32 0) = memRead m a :=
  congrArg (memRead m) (BitVec.add_zero a)

/-- The string at an address is its first character and the string after it. -/
theorem stringAt_cons {m : Memory} {a : Addr} {c : Byte} {cs : List Byte} (h : Claims.StringAt m a (c :: cs)) :
    c ≠ 0 ∧ memRead m a = c ∧ Claims.StringAt m (a + 1) cs := by
  obtain ⟨hne, hchars, hend⟩ := h
  refine ⟨hne c List.mem_cons_self, ?head, fun d hd => hne d (List.mem_cons_of_mem c hd), fun k hk => ?chars, ?stop⟩
  case head => exact (memRead_add_zero m a).symm.trans (hchars 0 (Nat.zero_lt_succ _))
  case chars =>
    rw [← addr_add_ofNat_succ]
    exact hchars (k + 1) (Nat.succ_lt_succ hk)
  case stop =>
    rw [← addr_add_ofNat_succ]
    exact hend

theorem seqSteps_one_eq_stringStep {s : State} (hseq : canSeq s = true) (htodo : s.todo = [])
    (hact : s.strActive = true) : seqSteps 1 s = stringStep s := by
  refine (if_pos hseq).trans ?_
  rw [seqStep, htodo]
  exact if_pos hact

/-- One character of a string: the iteration that reads it and the nine events it loads. -/
theorem seqSteps_string_char {s : State} {c : Byte} (hseq : canSeq s = true) (htodo : s.todo = [])
    (hact : s.strActive = true) (hread : memRead s.strmem s.strPtr = c) (hc : c ≠ 0) :
    seqSteps 10 s = { emitAll (dataEvents c) s with strPtr := s.strPtr + 1 } := by
  have hloop : seqSteps 1 s = { s with strPtr := s.strPtr + 1, todo := dataEvents c } := by
    rw [← hread] at hc ⊢
    rw [seqSteps_one_eq_stringStep hseq htodo hact, stringStep_of_char hc]
  have hrun := seqSteps_todo_length (s := { s with strPtr := s.strPtr + 1, todo := dataEvents c }) hseq
  calc seqSteps (1 + 9) s
      = seqSteps 9 { s with strPtr := s.strPtr + 1, todo := dataEvents c } := by rw [seqSteps_add, hloop]
    _ = { emitAll (dataEvents c) s with strPtr := s.strPtr + 1 } := by
      refine hrun.trans ?_
      simp only [emitAll_eq, ← htodo]

/-- The string loop sends the characters up to the terminator, and stops behind it. -/
theorem seqSteps_string {s : State} {cs : List Byte} (hseq : canSeq s = true) (htodo : s.todo = [])
    (hact : s.strActive = true) (hstr : Claims.StringAt s.strmem s.strPtr cs) :
    seqSteps (10 * cs.length + 1) s = { emitAll (textEvents cs) s with
      strPtr := s.strPtr + BitVec.ofNat 32 (cs.length + 1), strActive := false } := by
  induction cs generalizing s with
  | nil =>
    obtain ⟨-, -, hend⟩ := hstr
    have hread : memRead s.strmem s.strPtr = 0 := (memRead_add_zero _ _).symm.trans hend
    refine (seqSteps_one_eq_stringStep hseq htodo hact).trans ?_
    rw [stringStep_of_end hread]
    rfl
  | cons c cs ih =>
    obtain ⟨hc, hread, hrest⟩ := stringAt_cons hstr
    have hlen : 10 * (c :: cs).length + 1 = 10 + (10 * cs.length + 1) := by
      rw [List.length_cons]
      omega
    rw [hlen, seqSteps_add, seqSteps_string_char hseq htodo hact hread hc, emitAll_eq]
    refine (ih ?seq ?todo ?act ?str).trans ?rest
    case seq => exact hseq
    case todo => exact htodo
    case act => exact hact
    case str => exact hrest
    case rest =>
      have htext : textEvents (c :: cs) = dataEvents c ++ textEvents cs := rfl
      rw [htext, emitAll_append, List.length_cons, addr_add_ofNat_succ s.strPtr]
      simp only [emitAll_eq]

theorem seqSteps_string_to_done {s : State} {cs : List Byte} (hseq : canSeq s = true) (hop : OnlySignalsDone s.curOp)
    (htodo : s.todo = []) (hact : s.strActive = true) (hstr : Claims.StringAt s.strmem s.strPtr cs) :
    seqSteps (10 * cs.length + 2) s = signalDone { emitAll (textEvents cs) s with
      strPtr := s.strPtr + BitVec.ofNat 32 (cs.length + 1), strActive := false } := by
  rw [seqSteps_add (10 * cs.length + 1) 1, seqSteps_string hseq htodo hact hstr, emitAll_eq]
  exact seqSteps_one_eq_signalDone hseq hop htodo rfl

theorem loadString_latchRequest {a : Addr} (ha : a ≠ 0) (op : Nibble) (arg : Word) (s : State) :
    loadString a (latchRequest op arg s) =
      { s with busy := true, curOp := op, curArg := arg, todo := [], strActive := true, strPtr := a } :=
  if_neg ha

/-- A terminated string is sent as its characters (42_lcd R142). -/
theorem exec_lcdOutString_out {s : State} (h : Claims.Idle s) {a : Addr} (ha : a ≠ 0) {cs : List Byte}
    (hstr : Claims.StringAt s.strmem a cs) : ∃ t, exec (.lcdOutString a) s = .next t ∧
      (seqSteps (10 * cs.length + 2) t).out = s.out ++ textEvents cs := by
  have hexec : exec (.lcdOutString a) s = .next (loadString a (latchRequest 0x4 a s)) :=
    acceptStep_accepted (canAccept_of_idle h) 0x4 a (loadString a)
  have hop : OnlySignalsDone 0x4 := by decide
  obtain ⟨-, hhandler, -⟩ := h
  rw [loadString_latchRequest ha] at hexec
  refine ⟨_, hexec, (congrArg State.out (seqSteps_string_to_done ?canStep hop rfl rfl hstr)).trans (emitAll_out _ _)⟩
  case canStep => exact (canSeq_iff _).2 ⟨rfl, hhandler⟩

theorem displayReads_textEvents {b : BusTiming} (h : b.pulseWidthMet = true) (cs : List Byte) :
    displayReads b (textEvents cs) = some (cs.map fun c => (true, c)) := by
  rw [displayReads_of_pulseWidthMet h, joinNibbles_receiverView_textEvents]

end Sys2Proof.Machine

/-! ### The statements -/

namespace Sys2Proof.Claims

open Sys2Proof Sys2Proof.Machine

/-- Settles O2, by the formats of the table. -/
theorem encodedInstructionsDecodeBack : Obligations.EncodedInstructionsDecodeBack := by
  unfold Obligations.EncodedInstructionsDecodeBack
  exact fun _ _ => decode_of_encode

/-- Settles O3: a request and a frame are the words of their fields, and a code that decodes is one of the seven. -/
theorem decodedWordsEncodeBack : Obligations.DecodedWordsEncodeBack := by
  unfold Obligations.DecodedWordsEncodeBack
  intro w i h
  cases w with
  | request w =>
    obtain rfl := Except.ok.inj h
    exact encode_decodeRequest w
  | frame f =>
    obtain rfl := Except.ok.inj h
    exact encode_decodeFrame f
  | code c => exact encode_of_decodeCode h

/-- Settles O1, by running the decoder on the words. -/
theorem sampleWordsDecode : Obligations.SampleWordsDecode := by
  unfold Obligations.SampleWordsDecode
  decide

/-- Settles O17: the two rows are one step of the model. -/
theorem homeIsCommandTwo : Obligations.HomeIsCommandTwo := by
  unfold Obligations.HomeIsCommandTwo
  exact fun _ _ => rfl

/-- Settles O28: what a number operation loads and a string operation sends are the events of its text, and the
receiver reads the text from these. -/
theorem receiverReadsTheText : Obligations.ReceiverReadsTheText := by
  unfold Obligations.ReceiverReadsTheText
  refine ⟨fun n s hidle => ?number, fun a cs s hidle ha hstr => ?string⟩
  case number =>
    have hacc := acceptStep_accepted (canAccept_of_idle hidle)
    refine ⟨_, _, _, hacc 0x5 n _, hacc 0x6 n _, hacc 0x7 n _, ?_⟩
    simp only [loadTodo_todo, decimalText_eq_decimalAscii, hexText_eq_hexAscii, fixedText_eq_fixedAscii]
    exact ⟨joinNibbles_receiverView_textEvents _, joinNibbles_receiverView_textEvents _,
      joinNibbles_receiverView_textEvents _, fun b hb =>
      ⟨displayReads_textEvents hb _, displayReads_textEvents hb _, displayReads_textEvents hb _⟩⟩
  case string =>
    obtain ⟨t, hexec, hout⟩ := exec_lcdOutString_out hidle ha hstr
    exact ⟨t, textEvents cs, hexec, hout, joinNibbles_receiverView_textEvents cs, fun b hb =>
      displayReads_textEvents hb cs⟩

/-- Settles O9: a frame row is one transmission in place, and its byte is that of its fields. -/
theorem frameRowsTransmitTheirByte : Obligations.FrameRowsTransmitTheirByte := by
  unfold Obligations.FrameRowsTransmitTheirByte
  intro d k3 k2 en rs s h
  have hsend := runInPlace_frame h
  refine ⟨hsend _, hsend _, hsend _, hsend _, ?_⟩
  rw [← frameByte_eq_ofNat]
  exact hsend _

/-- Settles O12, by the micro-sequence of a command byte and that of a nibble transfer. -/
theorem displayCodesAreSent : Obligations.DisplayCodesAreSent := by
  unfold Obligations.DisplayCodesAreSent
  intro s h
  have hcommand := runInPlace_command h
  have hnibble := runInPlace_nibbleWrite h
  exact ⟨hcommand _, hcommand _, hcommand _, hcommand _, hcommand _, hnibble Config.nibReset8 0,
    hnibble Config.nibSet4 0⟩

/-- Settles O19: no load of these operations looks at the ignored bits. -/
theorem ignoredArgumentBitsOnlyLatch : Obligations.IgnoredArgumentBitsOnlyLatch := by
  unfold Obligations.IgnoredArgumentBitsOnlyLatch
  intro arg arg' hi hi' b s hbusy hhandler
  have hacc : canAccept s = true := (canAccept_iff s).2 ⟨hbusy, hhandler⟩
  have hlatch (op : Nibble) (arg arg' : Word) (es : List Event) :=
    acceptStep_latches_arg hacc op arg arg' (load := loadTodo es) fun _ => rfl
  have hread := acceptStep_latches_arg hacc 0x9 arg arg' (load := loadSpeedRead) fun _ => rfl
  exact ⟨hlatch 0x0 arg arg' _, hlatch 0x1 arg arg' _, hlatch 0x8 arg arg' _, hread,
    hlatch 0x2 (byteArg hi b) (byteArg hi' b) _, hlatch 0x3 (byteArg hi b) (byteArg hi' b) _⟩

/-- Settles O21: the parts of the sequence deliver and wait one after the other. -/
theorem initDeliversTwelveNibbles : Obligations.InitDeliversTwelveNibbles := by
  unfold Obligations.InitDeliversTwelveNibbles
  intro arg s hidle
  have hview := (Delivers.init s.initPostSwitchDelayMs).receiverView
  refine ⟨_, acceptStep_accepted (canAccept_of_idle hidle) 0x0 arg _, hview, fun b hb => ?_, minDelayMs_initEvents _⟩
  rw [displayLatches_of_pulseWidthMet hb]
  exact congrArg some hview

/-- Settles O24: both rows are a command byte, accepted, sent and done. -/
theorem clearAndHomeRunToDone : Obligations.ClearAndHomeRunToDone := by
  unfold Obligations.ClearAndHomeRunToDone
  intro arg hi s hidle
  have hclear : exec (.lcdClear arg) s = .next _ := acceptStep_accepted (canAccept_of_idle hidle) 0x1 arg _
  have hhome : exec (.lcdHome hi) s = .next _ :=
    acceptStep_accepted (canAccept_of_idle hidle) 0x2 (byteArg hi Config.cmdHome) _
  refine ⟨rfl, rfl, ?clearLoads, ?homeLoads, ⟨_, hclear, ?clearRuns⟩, ⟨_, hhome, ?homeRuns⟩⟩
  case clearLoads =>
    rw [hclear, loadTodo_latchRequest hidle, commandEvents_eq_commandNine]
    rfl
  case homeLoads =>
    rw [hhome, loadTodo_latchRequest hidle, commandEvents_eq_commandNine]
    rfl
  case clearRuns => exact command_runs_to_done hidle (by decide) arg _
  case homeRuns => exact command_runs_to_done hidle (by decide) _ _

/-- Settles O34: each reserved code is a request that selects nothing. -/
theorem reservedCodesRaiseIllegalOp : Obligations.ReservedCodesRaiseIllegalOp := by
  unfold Obligations.ReservedCodesRaiseIllegalOp
  intro arg s hidle
  have hillegal (op : Nibble) (hop : OnlySignalsDone op) := illegal_request_completes hidle hop arg
  simp only [List.forall_mem_cons]
  exact ⟨hillegal 0xA (by decide), hillegal 0xB (by decide), hillegal 0xC (by decide), hillegal 0xD (by decide),
    hillegal 0xE (by decide), hillegal 0xF (by decide), nofun⟩

end Sys2Proof.Claims
end

section
/-! The statement of 40_lcd_init: the sequence of `LCD_INIT` written out, and its run to the mode `Ready` (R110 to
R112). -/

namespace Sys2Proof.Machine

/-! ### The sequence written out, and what it leaves (40_lcd_init R111, R112) -/

theorem initEvents_eq_initTrace (p : Nat) : initEvents p = Claims.initTrace p := by
  simp only [initEvents, Claims.initTrace, commandEvents_eq_commandNine, List.append_assoc]
  rfl

theorem critAfter_append (c : Bool) (xs ys : List Event) :
    critAfter c (xs ++ ys) = critAfter (critAfter c xs) ys := by
  induction xs generalizing c with
  | nil => rfl
  | cons x xs ih => cases x <;> exact ih _

/-- The sequence ends with a command byte, which leaves its critical section whatever came before. -/
theorem critAfter_initEvents (c : Bool) (p : Nat) : critAfter c (initEvents p) = false := by
  rw [initEvents, critAfter_append]
  rfl

theorem cfgAfter_initEvents (c : Bool) (p : Nat) : cfgAfter c (initEvents p) = true :=
  (cfgAfter_iff c _).2 (.inr (csInit_mem_initEvents p))

/-! ### The run (10_state R22 (c)) -/

section

variable {s : State}

/-- The completing step of `LCD_INIT`: the mode becomes `Ready`, and `done` is signalled. -/
theorem seqStep_eq_lcdInitDone (hop : s.curOp = 0x0) (htodo : s.todo = []) (hact : s.strActive = false) :
    seqStep s = signalDone (lcdInitDone s) := by
  have htorn : tornReadLeft s = false := by simp [tornReadLeft, hop]
  have heffect : completionEffect s = lcdInitDone s := by simp [completionEffect, hop]
  simp [seqStep, htodo, hact, htorn, completeStep, heffect]

theorem seqSteps_one_eq_lcdInitDone (hseq : canSeq s = true) (hop : s.curOp = 0x0) (htodo : s.todo = [])
    (hact : s.strActive = false) : seqSteps 1 s = signalDone (lcdInitDone s) :=
  (if_pos hseq).trans (seqStep_eq_lcdInitDone hop htodo hact)

/-- Once the sequence is loaded, the sequencer alone emits it and completes. -/
theorem lcdInit_runs_to_ready (h : Claims.Idle s) (arg : Word) (p : Nat) :
    seqSteps ((initEvents p).length + 1) (loadTodo (initEvents p) (latchRequest 0x0 arg s)) =
      { Claims.afterOperation 0x0 arg (initEvents p) s with csConfigured := true, lcdMode := .ready } := by
  have ⟨_, hhandler, hact⟩ := h
  have hseq : canSeq (loadTodo (initEvents p) (latchRequest 0x0 arg s)) = true := (canSeq_iff _).2 ⟨rfl, hhandler⟩
  have hemits : seqSteps (initEvents p).length (loadTodo (initEvents p) (latchRequest 0x0 arg s)) =
      { emitAll (initEvents p) (loadTodo (initEvents p) (latchRequest 0x0 arg s)) with todo := [] } :=
    seqSteps_todo_length hseq
  rw [seqSteps_add, hemits, loadTodo_latchRequest h, emitAll_eq, critAfter_initEvents, cfgAfter_initEvents]
  exact seqSteps_one_eq_lcdInitDone hseq rfl rfl hact

end

end Sys2Proof.Machine

/-! ### The statement -/

namespace Sys2Proof.Claims

open Sys2Proof Sys2Proof.Machine

/-- Settles O20: the accepted request loads the sequence of R112, and the sequencer runs it to its end. -/
theorem lcdInitRunsToReady : Obligations.LcdInitRunsToReady := by
  unfold Obligations.LcdInitRunsToReady
  intro arg s hidle
  have hexec : exec (.lcdInit arg) s = .next (loadTodo (initEvents s.initPostSwitchDelayMs) (latchRequest 0x0 arg s)) :=
    acceptStep_accepted (canAccept_of_idle hidle) 0x0 arg _
  simp only [← initEvents_eq_initTrace]
  refine ⟨?loads, _, hexec, lcdInit_runs_to_ready hidle arg s.initPostSwitchDelayMs⟩
  case loads => rw [hexec, loadTodo_latchRequest hidle]

end Sys2Proof.Claims
end

section
/-! The statements of 41_lcd: the nibble and byte transfers written out (R120, R121, R123), what the receiver takes from
them (R125), and the runs of `LCD_COMMAND` and `LCD_DATA` (R127, R128). -/

namespace Sys2Proof.Machine

/-! ### The transfers written out (41_lcd R120, R121, R123) -/

/-- The control pattern loses its enable bit and nothing else (41_lcd R121). -/
theorem controlBits_eq (c : Nibble) : controlBits c = (c &&& 0xD).setWidth 8 := rfl

theorem enableBit_eq : enableBit = 0x02 := rfl

theorem nibbleWriteEvents_eq (v : Byte) (c : Nibble) : nibbleWriteEvents v c =
    [.tx (v &&& 0xF0 ||| (c &&& 0xD).setWidth 8), .tx (v &&& 0xF0 ||| (c &&& 0xD).setWidth 8 ||| 0x02),
      .tx (v &&& 0xF0 ||| (c &&& 0xD).setWidth 8)] := by
  rw [nibbleWriteEvents, controlBits_eq, enableBit_eq, hiNibble]

/-- The lower nibble is moved to bits 7:4, so each transfer sends its nibble there. -/
theorem byteXferEvents_eq (b : Byte) (c : Nibble) : byteXferEvents b c =
    [.critEnter,
      .tx (b &&& 0xF0 ||| (c &&& 0xD).setWidth 8), .tx (b &&& 0xF0 ||| (c &&& 0xD).setWidth 8 ||| 0x02),
      .tx (b &&& 0xF0 ||| (c &&& 0xD).setWidth 8),
      .tx (b <<< 4 ||| (c &&& 0xD).setWidth 8), .tx (b <<< 4 ||| (c &&& 0xD).setWidth 8 ||| 0x02),
      .tx (b <<< 4 ||| (c &&& 0xD).setWidth 8), .critExit] := by
  simp only [byteXferEvents, nibbleWriteEvents, hiNibble_hiNibble, hiNibble_loNibble, controlBits_eq, enableBit_eq,
    List.cons_append, List.nil_append]

/-- A byte transfer run in place ends outside its critical section (41_lcd R126). -/
theorem runInPlace_byteXfer {s : State} (h : s.inHandler = false) (b : Byte) (c : Nibble) :
    runInPlace (byteXferEvents b c) s = .next { s with lcdCrit := false, out := s.out ++ byteXferEvents b c } :=
  runInPlace_run (byteXferEvents b c) s h

/-! ### What the receiver takes from one transfer (41_lcd R125) -/

theorem joinNibbles_receiverView_byteXferEvents (b : Byte) (c : Nibble) :
    joinNibbles (receiverView (byteXferEvents b c)) = [(c.getLsbD 0, b)] := by
  rw [(Delivers.byteXfer b c).receiverView]
  exact joinNibbles_bytePairs_append (c.getLsbD 0) b []

/-! ### The requests of one byte (41_lcd R127, R128) -/

section

variable {s : State}

/-- A request of an idle block loads its list, and the sequencer alone runs it to its end. -/
theorem acceptStep_loads_and_runs_to_done (h : Claims.Idle s) {op : Nibble} (hop : OnlySignalsDone op) (arg : Word)
    {es : List Event} (hcrit : critAfter s.lcdCrit es = false) (hcfg : cfgAfter s.csConfigured es = s.csConfigured) :
    acceptStep op arg (loadTodo es) s = .next { s with busy := true, curOp := op, curArg := arg, todo := es } ∧
    ∃ t, acceptStep op arg (loadTodo es) s = .next t ∧
      seqSteps (es.length + 1) t = Claims.afterOperation op arg es s := by
  have haccept := acceptStep_accepted (canAccept_of_idle h) op arg (loadTodo es)
  refine ⟨?loads, _, haccept, request_runs_to_done h hop arg hcrit hcfg⟩
  case loads => rw [haccept, loadTodo_latchRequest h]

theorem exec_lcdCommand_eq (hi : BitVec 24) (b : Byte) :
    exec (.lcdCommand hi b) s = acceptStep 0x2 (hi ++ b) (loadTodo (Claims.commandNine b)) s := by
  rw [← commandEvents_eq_commandNine]
  rfl

theorem exec_lcdData_eq (hi : BitVec 24) (b : Byte) :
    exec (.lcdData hi b) s = acceptStep 0x3 (hi ++ b) (loadTodo (Claims.dataNine b)) s := by
  rw [← dataEvents_eq_dataNine]
  rfl

end

end Sys2Proof.Machine

/-! ### The statements -/

namespace Sys2Proof.Claims

open Sys2Proof Sys2Proof.Machine

/-- Settles O22: the nine events leave their critical section and do not touch the chip select, so the accepted request
runs them to its end. -/
theorem commandRunsToDone : Obligations.CommandRunsToDone := by
  unfold Obligations.CommandRunsToDone
  intro hi b s hidle
  rw [exec_lcdCommand_eq]
  exact ⟨rfl, acceptStep_loads_and_runs_to_done (es := commandNine b) hidle (by decide) (hi ++ b) rfl rfl⟩

/-- Settles O23, as O22 with the events of a character. -/
theorem dataRunsToDone : Obligations.DataRunsToDone := by
  unfold Obligations.DataRunsToDone
  intro hi b s hidle
  rw [exec_lcdData_eq]
  exact ⟨rfl, acceptStep_loads_and_runs_to_done (es := dataNine b) hidle (by decide) (hi ++ b) rfl rfl⟩

/-- Settles O29: the receiver latches a nibble at each rise of enable, and so does the display where its pulse width is
met. -/
theorem receiverSeesTheByte : Obligations.ReceiverSeesTheByte := by
  unfold Obligations.ReceiverSeesTheByte
  intro b c
  have hbyte := joinNibbles_receiverView_byteXferEvents b c
  have hnibble := (Delivers.nibbleWrite b c).receiverView
  refine ⟨(Delivers.byteXfer b c).receiverView, hbyte, hnibble, fun p hp => ⟨?reads, ?latches⟩⟩
  case reads => rw [displayReads_of_pulseWidthMet hp, hbyte]
  case latches => rw [displayLatches_of_pulseWidthMet hp, hnibble]

/-- Settles O10: the row is its three frames in place. -/
theorem nibbleWriteEmitsThreeFrames : Obligations.NibbleWriteEmitsThreeFrames := by
  unfold Obligations.NibbleWriteEmitsThreeFrames
  intro v c s h
  rw [← nibbleWriteEvents_eq]
  exact runInPlace_nibbleWrite h v c

/-- Settles O11: the row is its eight events in place. -/
theorem byteXferEmitsTheFramedTransfer : Obligations.ByteXferEmitsTheFramedTransfer := by
  unfold Obligations.ByteXferEmitsTheFramedTransfer
  intro b c s h
  rw [← byteXferEvents_eq]
  exact runInPlace_byteXfer h b c

end Sys2Proof.Claims
end

section
/-! The statements of 42_lcd: strings with their terminator, without one and of the null address (R141 to R144), and the
numbers with how long their texts are (R145 to R150). -/

namespace Sys2Proof.Machine

/-! ### The events of a text, written out (41_lcd R128, 42_lcd R140) -/

theorem textEvents_eq (cs : List Byte) : textEvents cs = cs.flatMap Claims.dataNine := by
  rw [textEvents, funext dataEvents_eq_dataNine]

theorem length_textNines (cs : List Byte) : (cs.flatMap Claims.dataNine).length = 9 * cs.length := by
  induction cs with
  | nil => rfl
  | cons c cs ih =>
    rw [List.flatMap_cons, List.length_append, ih, List.length_cons]
    change 9 + 9 * cs.length = _
    omega

/-- Each character leaves its critical section, so a text does, the empty one where the block was outside (41_lcd
R126). -/
theorem critAfter_textNines {c : Bool} {cs : List Byte} (h : c = false ∨ cs ≠ []) :
    critAfter c (cs.flatMap Claims.dataNine) = false := by
  induction cs generalizing c with
  | nil => exact h.resolve_right fun hne => hne rfl
  | cons b cs ih => exact ih (c := false) (.inl rfl)

theorem cfgAfter_textNines (c : Bool) (cs : List Byte) : cfgAfter c (cs.flatMap Claims.dataNine) = c := by
  induction cs with
  | nil => rfl
  | cons b cs ih => exact ih

/-! ### How many characters a number has (42_lcd R145 to R150) -/

/-- A number below `r ^ k` has one to `k` digits in radix `r`, `z` standing for the digit of 0. -/
theorem length_digitText {r n k : Nat} (hr : 1 < r) (hk : 0 < k) (hn : n < r ^ k) (z : Byte) (f : Nat → Byte) :
    1 ≤ (if n = 0 then [z] else (Nat.digits r n).reverse.map f).length ∧
      (if n = 0 then [z] else (Nat.digits r n).reverse.map f).length ≤ k := by
  split
  · exact ⟨Nat.le_refl 1, hk⟩
  · rename_i hne
    rw [List.length_map, List.length_reverse]
    exact ⟨List.length_pos_iff.2 (Nat.digits_ne_nil_iff_ne_zero.2 hne), (Nat.digits_length_le_iff hr n).2 hn⟩

theorem length_decimalAscii {n k : Nat} (hk : 0 < k) (hn : n < 10 ^ k) :
    1 ≤ (Claims.decimalAscii n).length ∧ (Claims.decimalAscii n).length ≤ k :=
  length_digitText (by decide) hk hn _ _

theorem length_hexAscii {n k : Nat} (hk : 0 < k) (hn : n < 16 ^ k) :
    1 ≤ (Claims.hexAscii n).length ∧ (Claims.hexAscii n).length ≤ k :=
  length_digitText (by decide) hk hn _ _

/-- A fixed-point number is one to three digits, the point and a digit, or the overflow text (42_lcd R150). -/
theorem length_fixedAscii (n : Nat) : 3 ≤ (Claims.fixedAscii n).length ∧ (Claims.fixedAscii n).length ≤ 5 := by
  unfold Claims.fixedAscii
  split
  · decide
  · have ⟨hpos, hle⟩ := length_decimalAscii (n := n / 10) (k := 3) (by decide) (by omega)
    rw [List.length_append, List.length_cons, List.length_singleton]
    omega

/-! ### The runs of the number operations (42_lcd R146, R148, R150) -/

section

variable {s : State}

theorem exec_lcdOutUDec_eq (n : Word) :
    exec (.lcdOutUDec n) s = acceptStep 0x5 n (loadTodo ((Claims.decimalAscii n.toNat).flatMap Claims.dataNine)) s := by
  rw [← textEvents_eq, ← decimalText_eq_decimalAscii]
  rfl

theorem exec_lcdOutUHex_eq (n : Word) :
    exec (.lcdOutUHex n) s = acceptStep 0x6 n (loadTodo ((Claims.hexAscii n.toNat).flatMap Claims.dataNine)) s := by
  rw [← textEvents_eq, ← hexText_eq_hexAscii]
  rfl

theorem exec_lcdOutUFix_eq (n : Word) :
    exec (.lcdOutUFix n) s = acceptStep 0x7 n (loadTodo ((Claims.fixedAscii n.toNat).flatMap Claims.dataNine)) s := by
  rw [← textEvents_eq, ← fixedText_eq_fixedAscii]
  rfl

/-- A request of an idle block that loads a text of at least one character sends it and is done. -/
theorem text_request_runs_to_done (h : Claims.Idle s) {op : Nibble} (hop : OnlySignalsDone op) (arg : Word)
    {cs : List Byte} (hlen : 1 ≤ cs.length) : ∃ t,
      acceptStep op arg (loadTodo (cs.flatMap Claims.dataNine)) s = .next t ∧
      t = { s with busy := true, curOp := op, curArg := arg, todo := cs.flatMap Claims.dataNine } ∧
      seqSteps (9 * cs.length + 1) t = Claims.afterOperation op arg (cs.flatMap Claims.dataNine) s := by
  obtain ⟨hloads, t, haccept, hruns⟩ := acceptStep_loads_and_runs_to_done h hop arg
    (critAfter_textNines (.inr (List.length_pos_iff.1 hlen))) (cfgAfter_textNines s.csConfigured cs)
  rw [length_textNines] at hruns
  exact ⟨t, haccept, Host.Outcome.next.inj (haccept.symm.trans hloads), hruns⟩

/-! ### A string that ends, and the null string (42_lcd R142, R143) -/

theorem exec_lcdOutString_eq (h : Claims.Idle s) {a : Addr} (ha : a ≠ 0) : exec (.lcdOutString a) s = .next { s with
    busy := true, curOp := 0x4, curArg := a, todo := [], strActive := true, strPtr := a } :=
  (acceptStep_accepted (canAccept_of_idle h) 0x4 a (loadString a)).trans
    (congrArg Host.Outcome.next (loadString_latchRequest ha 0x4 a s))

/-- The loop sends the characters, stops behind the terminator, and the operation is done (42_lcd R142). -/
theorem string_runs_to_done (h : Claims.Idle s) (hcrit : s.lcdCrit = false) {a : Addr} {cs : List Byte}
    (hstr : Claims.StringAt s.strmem a cs) :
    seqSteps (10 * cs.length + 2) { s with
        busy := true, curOp := 0x4, curArg := a, todo := [], strActive := true, strPtr := a } =
      { Claims.afterOperation 0x4 a (cs.flatMap Claims.dataNine) s with
        strPtr := a + BitVec.ofNat 32 (cs.length + 1) } := by
  obtain ⟨-, hhandler, hact⟩ := h
  have hop : OnlySignalsDone 0x4 := by decide
  refine Eq.trans (seqSteps_string_to_done ?canStep hop rfl rfl hstr) ?sent
  case canStep => exact (canSeq_iff _).2 ⟨rfl, hhandler⟩
  case sent =>
    rw [← hact, emitAll_eq, textEvents_eq, critAfter_textNines (.inl hcrit), cfgAfter_textNines]
    rfl

theorem exec_lcdOutString_null : exec (.lcdOutString 0) s = acceptStep 0x4 0 loadIllegal s := by
  have hload : loadString 0 = loadIllegal := funext fun _ => if_pos rfl
  rw [← hload]
  rfl

end

/-! ### A string with no terminator: what no move but `RESET` and a zero changes (42_lcd R144) -/

/-- `t` is as hung on a string as `s`: no operation completed, no `IllegalOp`, and a waiting request waits on. -/
def StaysHung (s t : State) : Prop :=
  Claims.HungOnString t ∧ t.doneCount = s.doneCount ∧ statusIllegalOp t = statusIllegalOp s ∧
    ∀ w, s.req = some w → t.req = some w

/-- What of a hung block must not change. -/
def hangView (s : State) :=
  (s.probe, s.busy, s.strActive, s.strmem, s.doneCount, statusIllegalOp s, s.req)

section

variable {s t u : State}

theorem StaysHung.hung (h : StaysHung s t) : Claims.HungOnString t := h.left

theorem StaysHung.trans (h : StaysHung s t) (h' : StaysHung t u) : StaysHung s u := by
  obtain ⟨-, hdone, hillegal, hreq⟩ := h
  obtain ⟨hhung, hdone', hillegal', hreq'⟩ := h'
  exact ⟨hhung, hdone'.trans hdone, hillegal'.trans hillegal, fun w hw => hreq' w (hreq w hw)⟩

theorem staysHung_of_hangView_eq (h : Claims.HungOnString s) (hsame : hangView t = hangView s) : StaysHung s t := by
  simp only [hangView, Prod.mk.injEq] at hsame
  obtain ⟨hprobe, hbusy, hact, hmem, hdone, hillegal, hreq⟩ := hsame
  obtain ⟨hagents, hatwork, hloop, hnonzero⟩ := h
  exact ⟨⟨hprobe.trans hagents, hbusy.trans hatwork, hact.trans hloop, hmem ▸ hnonzero⟩, hdone, hillegal,
    fun _ hw => hreq.trans hw⟩

theorem canAccept_of_hung (h : Claims.HungOnString s) : canAccept s = false := by
  obtain ⟨-, hbusy, -, -⟩ := h
  exact (canAccept_eq_false_iff s).2 (.inl hbusy)

theorem exec_decodeRequest_of_hung (h : Claims.HungOnString s) (w : ReqWord) :
    exec (decodeRequest w) s = .next s := by
  obtain ⟨op, arg, load, -, hexec⟩ := exec_decodeRequest_eq w
  rw [hexec, acceptStep_held (canAccept_of_hung h)]

/-- The loop never reads a zero, so it does not end, and no operation completes while it runs. -/
theorem staysHung_of_seqEffect (h : Claims.HungOnString s) (heffect : SeqEffect s t) : StaysHung s t := by
  have ⟨_, _, hact, hnonzero⟩ := h
  cases heffect with
  | emits => exact staysHung_of_hangView_eq h (by simp [hangView, statusIllegalOp])
  | stringEnds _ hread => exact absurd hread (hnonzero s.strPtr)
  | stringReads | tornRead => exact staysHung_of_hangView_eq h rfl
  | initDone _ hoff | tachDone _ hoff | otherDone _ hoff => cases hact.symm.trans hoff

theorem statusIllegalOp_irqBodyStep (s : State) : statusIllegalOp (irqBodyStep s) = statusIllegalOp s := by
  rw [irqBodyStep_eq, statusIllegalOp, statusIllegalOp]
  dsimp only
  split
  · simp
  · rfl

theorem staysHung_exec {i : Instr} (h : Claims.HungOnString s) (hi : i ≠ .reset) (hexec : exec i s = .next t) :
    StaysHung s t := by
  cases runsAs i with
  | request _ hrun =>
    rw [hrun, acceptStep_held (canAccept_of_hung h)] at hexec
    exact Host.Outcome.next.inj hexec ▸ staysHung_of_hangView_eq h rfl
  | inPlace hrun =>
    rcases runInPlace_cases _ s with ⟨-, heq⟩ | ⟨-, heq⟩ <;>
      obtain rfl := Host.Outcome.next.inj ((hrun s).trans heq |>.symm.trans hexec)
    · exact staysHung_of_hangView_eq h rfl
    · exact staysHung_of_hangView_eq h (by rw [emitAll_eq]; rfl)
  | seq =>
    rcases exec_seq_cases hexec with rfl | ⟨-, -, heffect⟩
    · exact staysHung_of_hangView_eq h rfl
    · exact staysHung_of_seqEffect h heffect
  | irqAck => rcases exec_irqAck_cases hexec with rfl | ⟨-, rfl⟩ <;> exact staysHung_of_hangView_eq h rfl
  | irqBody =>
    rcases exec_irqBody_cases hexec with rfl | ⟨-, rfl⟩
    · exact staysHung_of_hangView_eq h rfl
    · refine staysHung_of_hangView_eq h ?_
      rw [hangView, statusIllegalOp_irqBodyStep, irqBodyStep_eq]
      rfl
  | tick =>
    rw [exec_tick_eq] at hexec
    obtain rfl := Host.Outcome.next.inj hexec
    exact staysHung_of_hangView_eq h rfl
  | edge => rcases exec_edge_cases hexec with rfl | ⟨-, rfl⟩ <;> exact staysHung_of_hangView_eq h rfl
  | reset => exact absurd rfl hi

theorem memRead_store_ne_zero {m : Memory} (hm : ∀ a, memRead m a ≠ 0) {b : Byte} (hb : b ≠ 0) (a a' : Addr) :
    memRead (Memory.store m a.toNat b) a' ≠ 0 := by
  by_cases heq : a' = a
  · rw [heq, memRead_store_same]
    exact hb
  · rw [memRead_store_other m b heq]
    exact hm a'

/-- A request row has a word and `RESET` has none. -/
theorem decodeRequest_ne_reset (w : ReqWord) : decodeRequest w ≠ .reset := by
  intro h
  obtain ⟨-, hword⟩ := encode_decodeRequest w
  rw [h] at hword
  cases hword

/-- What a move does before its agent acts: it may put a request on an empty port or write a byte that is no zero. -/
theorem staysHung_instrOfChoice (h : Claims.HungOnString s) {c : Choice} (hzero : ∀ a, c ≠ .strWrite a 0) :
    StaysHung s (instrOfChoice c s).2 := by
  have hself : StaysHung s s := staysHung_of_hangView_eq h rfl
  have ⟨hprobe, hbusy, hact, hnonzero⟩ := h
  cases c with
  | present w =>
    cases hreq : s.req with
    | none =>
      rw [instrOfChoice_present_empty hreq]
      exact ⟨⟨hprobe, hbusy, hact, hnonzero⟩, rfl, rfl, fun _ hw => nomatch hreq.symm.trans hw⟩
    | some q =>
      rw [instrOfChoice_present_occupied hreq]
      exact hself
  | strWrite a b =>
    have hb : b ≠ 0 := fun hb => hzero a (by rw [hb])
    exact ⟨⟨hprobe, hbusy, hact, memRead_store_ne_zero hnonzero hb a⟩, rfl, rfl, fun _ hw => hw⟩
  | accept =>
    cases hreq : s.req with
    | none =>
      rw [instrOfChoice_accept_empty hreq]
      exact hself
    | some w =>
      rw [instrOfChoice_accept_waiting hreq, takeRequest_held (canAccept_of_hung h)]
      exact hself
  | seq | irqAck | irqBody | tick | edge | reset => exact hself

theorem instrOfChoice_ne_reset {c : Choice} (hc : c ≠ .reset) {i : Instr} (h : (instrOfChoice c s).1 = some i) :
    i ≠ .reset := by
  cases c with
  | accept =>
    cases hreq : s.req with
    | none =>
      rw [instrOfChoice_accept_empty hreq] at h
      cases h
    | some w =>
      rw [instrOfChoice_accept_waiting hreq] at h
      exact Option.some.inj h ▸ decodeRequest_ne_reset w
  | reset => exact absurd rfl hc
  | present | strWrite => cases h
  | seq | irqAck | irqBody | tick | edge =>
    obtain rfl := Option.some.inj h
    nofun

theorem staysHung_step (h : Claims.HungOnString s) (hreset : (nextChoice s).1 ≠ .reset)
    (hzero : ∀ a, (nextChoice s).1 ≠ .strWrite a 0) (hstep : step s = .next t) : StaysHung s t := by
  have ⟨hprobe, _⟩ := h
  obtain ⟨agenda, draws, hnext⟩ := nextChoice_eq_withSurroundings s
  have hdrawn : StaysHung s (nextChoice s).2 := staysHung_of_hangView_eq h (by rw [hnext]; rfl)
  have hmoved := hdrawn.trans (staysHung_instrOfChoice hdrawn.hung hzero)
  have hagent (i : Instr) := instrOfChoice_ne_reset (s := (nextChoice s).2) hreset (i := i)
  rw [step_of_choice s hprobe] at hstep
  rcases hmove : instrOfChoice (nextChoice s).1 (nextChoice s).2 with ⟨_ | i, u⟩ <;>
    rw [hmove] at hstep hmoved hagent
  · exact Host.Outcome.next.inj hstep ▸ hmoved
  · exact hmoved.trans (staysHung_exec hmoved.hung (hagent i rfl) hstep)

/-! ### The sequencer alone on a string with no terminator (42_lcd R144) -/

/-- What every `Seq` step keeps, a run of the sequencer keeps. -/
theorem seqSteps_induction {P : State → Prop} (hstep : ∀ u, P u → P (seqStep u)) (k : Nat) (h : P s) :
    P (seqSteps k s) := by
  induction k generalizing s with
  | zero => exact h
  | succ k ih =>
    rw [seqSteps]
    split
    · exact ih (hstep s h)
    · exact ih h

theorem hung_seqSteps (h : Claims.HungOnString s) (k : Nat) :
    Claims.HungOnString (seqSteps k s) ∧ (seqSteps k s).doneCount = s.doneCount ∧
      (seqSteps k s).status = s.status := by
  refine seqSteps_induction
    (P := fun u => Claims.HungOnString u ∧ u.doneCount = s.doneCount ∧ u.status = s.status) ?_ k ⟨h, rfl, rfl⟩
  rintro u ⟨hhung, hdone, hstatus⟩
  have heffect := seqEffect_seqStep u
  obtain ⟨hnext, hsame, -⟩ := staysHung_of_seqEffect hhung heffect
  exact ⟨hnext, hsame.trans hdone, (status_of_seqEffect heffect).trans hstatus⟩

/-- One character: ten steps, one read and nine events. -/
theorem seqSteps_hung_char (h : Claims.HungOnString s) (hhandler : s.inHandler = false) (htodo : s.todo = [])
    (hcrit : s.lcdCrit = false) : seqSteps 10 s = { s with
      strPtr := s.strPtr + 1, out := s.out ++ Claims.dataNine (memRead s.strmem s.strPtr) } := by
  obtain ⟨-, hbusy, hact, hnonzero⟩ := h
  have hseq : canSeq s = true := (canSeq_iff s).2 ⟨hbusy, hhandler⟩
  rw [seqSteps_string_char hseq htodo hact rfl (hnonzero _), emitAll_eq, dataEvents_eq_dataNine, hcrit]
  rfl

/-- One character after the other, the pointer going round. -/
theorem seqSteps_endless_string (h : Claims.HungOnString s) (hhandler : s.inHandler = false) (htodo : s.todo = [])
    (hcrit : s.lcdCrit = false) (k : Nat) : seqSteps (10 * k) s = { s with
      strPtr := s.strPtr + BitVec.ofNat 32 k
      out := s.out ++ (List.range k).flatMap fun j =>
        Claims.dataNine (memRead s.strmem (s.strPtr + BitVec.ofNat 32 j)) } := by
  induction k with
  | zero => simp [seqSteps]
  | succ k ih =>
    rw [Nat.mul_succ, seqSteps_add, ih]
    refine Eq.trans (seqSteps_hung_char h hhandler htodo hcrit) ?_
    rw [List.range_succ, List.flatMap_append, List.flatMap_singleton, ← List.append_assoc, BitVec.ofNat_add,
      ← BitVec.add_assoc]
    rfl

end

end Sys2Proof.Machine

/-! ### The statements -/

namespace Sys2Proof.Claims

open Sys2Proof Sys2Proof.Machine

/-- Settles O33: no move but the two excepted frees a hung block, a request is held, and the sequencer alone takes one
character after the other. -/
theorem nonterminatedStringNeverCompletes : Obligations.NonterminatedStringNeverCompletes := by
  unfold Obligations.NonterminatedStringNeverCompletes
  refine ⟨fun s t => staysHung_step, fun s w hhung => ⟨?offered, exec_decodeRequest_of_hung hhung w⟩,
    fun s k hhung hhandler => ?alone⟩
  case offered => rw [exec_accept_eq_exec_decodeRequest, exec_decodeRequest_of_hung hhung]
  case alone =>
    obtain ⟨hstays, hdone, hstatus⟩ := hung_seqSteps hhung k
    exact ⟨hstays, hdone, hstatus, fun htodo hcrit => seqSteps_endless_string hhung hhandler htodo hcrit k⟩

/-- Settles O30: the request starts the loop at the string, and the loop runs over it. -/
theorem stringOutputRunsToDone : Obligations.StringOutputRunsToDone := by
  unfold Obligations.StringOutputRunsToDone
  intro a cs s hidle ha hcrit hstr
  have hexec := exec_lcdOutString_eq hidle ha
  exact ⟨rfl, hexec, length_textNines cs, _, hexec, string_runs_to_done hidle hcrit hstr⟩

/-- Settles O25: a 32-bit number is below `10 ^ 10`, and its digits are sent as a text. -/
theorem decimalOutputRunsToDone : Obligations.DecimalOutputRunsToDone := by
  unfold Obligations.DecimalOutputRunsToDone
  intro n s hidle
  obtain ⟨hpos, hle⟩ := length_decimalAscii (n := n.toNat) (k := 10) (by decide) (n.isLt.trans (by decide))
  obtain ⟨t, hexec, hloads, hruns⟩ := text_request_runs_to_done hidle (op := 0x5) (by decide) n hpos
  exact ⟨rfl, t, (exec_lcdOutUDec_eq n).trans hexec, hloads, hpos, hle, hruns⟩

/-- Settles O26, as O25 with `16 ^ 8`. -/
theorem hexOutputRunsToDone : Obligations.HexOutputRunsToDone := by
  unfold Obligations.HexOutputRunsToDone
  intro n s hidle
  obtain ⟨hpos, hle⟩ := length_hexAscii (n := n.toNat) (k := 8) (by decide) n.isLt
  obtain ⟨t, hexec, hloads, hruns⟩ := text_request_runs_to_done hidle (op := 0x6) (by decide) n hpos
  exact ⟨rfl, t, (exec_lcdOutUHex_eq n).trans hexec, hloads, hpos, hle, hruns⟩

/-- Settles O27: the text has three to five characters on both sides of 9999. -/
theorem fixedOutputRunsToDone : Obligations.FixedOutputRunsToDone := by
  unfold Obligations.FixedOutputRunsToDone
  intro n s hidle
  obtain ⟨hmin, hmax⟩ := length_fixedAscii n.toNat
  obtain ⟨t, hexec, hloads, hruns⟩ :=
    text_request_runs_to_done hidle (op := 0x7) (by decide) n (Nat.le_trans (by decide) hmin)
  exact ⟨rfl, t, (exec_lcdOutUFix_eq n).trans hexec, hloads, hmin, hmax, hruns⟩

/-- Settles O31: the null string is a request that selects nothing. -/
theorem nullStringRaisesIllegalOp : Obligations.NullStringRaisesIllegalOp := by
  unfold Obligations.NullStringRaisesIllegalOp
  intro s hidle
  rw [exec_lcdOutString_null]
  exact illegal_request_completes hidle (by decide) 0

end Sys2Proof.Claims
end

section
/-! The statements of 43_tachometer: the two requests (R161, R175, R176), the capture by `EDGE` (R164), the handler's
two steps (R166, R167), and what a handler run computes (R169 to R173, R178, R179). -/

namespace Sys2Proof.Machine

/-! ### The arithmetic of a capture (43_tachometer R169 to R171, R178) -/

theorem toNat_intervalOf (prev cur : Half) :
    (intervalOf prev cur).toNat = (2 ^ 32 + prev.toNat - cur.toNat) % 2 ^ 32 := by
  have hprev := half_toNat_lt prev
  have hcur := half_toNat_lt cur
  simp only [intervalOf, BitVec.toNat_sub, BitVec.toNat_setWidth]
  omega

theorem intervalOf_self (v : Half) : intervalOf v v = 0 := BitVec.sub_self _

/-- The product with 60 stays below `2 ^ 32`, and the truncations join into one. The guard at 0 agrees with division by
zero. -/
theorem toNat_speedOf (interval : Word) : (speedOf interval).toNat = 4000000 / interval.toNat := by
  by_cases hzero : interval = 0
  · subst hzero
    rfl
  have hquotient : 8000000 / interval.toNat ≤ 8000000 := Nat.div_le_self _ _
  calc (speedOf interval).toNat
      = 8000000 / interval.toNat * 60 % 2 ^ 32 / 120 := by rw [speedOf, if_neg hzero]; rfl
    _ = 8000000 / interval.toNat / 2 := by omega
    _ = 4000000 * 2 / (interval.toNat * 2) := Nat.div_div_eq_div_mul _ _ _
    _ = 4000000 / interval.toNat := Nat.mul_div_mul_right _ _ (by decide)

theorem toNat_speedOf_intervalOf_of_lt {prev cur : Half} (h : cur < prev) :
    (speedOf (intervalOf prev cur)).toNat = 4000000 / (prev.toNat - cur.toNat) := by
  have hlt : cur.toNat < prev.toNat := h
  have hprev := half_toNat_lt prev
  have hinterval : (2 ^ 32 + prev.toNat - cur.toNat) % 2 ^ 32 = prev.toNat - cur.toNat := by omega
  rw [toNat_speedOf, toNat_intervalOf, hinterval]

/-- A counter that did not go down gives the interval 0 or one above `4000000`. -/
theorem speedOf_intervalOf_of_le {prev cur : Half} (h : prev ≤ cur) : speedOf (intervalOf prev cur) = 0 := by
  have hle : prev.toNat ≤ cur.toNat := h
  have hcur := half_toNat_lt cur
  have hinterval : (intervalOf prev cur).toNat = 0 ∨ 4000000 < (intervalOf prev cur).toNat := by
    rw [toNat_intervalOf]
    omega
  apply BitVec.eq_of_toNat_eq
  rw [toNat_speedOf]
  rcases hinterval with hzero | hbig
  · rw [hzero]
    rfl
  · exact Nat.div_eq_of_lt hbig

/-- Two 16-bit captures are at most 65535 apart. -/
theorem speed_bounds_of_lt {prev cur : Half} (h : cur < prev) :
    61 ≤ 4000000 / (prev.toNat - cur.toNat) ∧ 4000000 / (prev.toNat - cur.toNat) ≤ 4000000 := by
  have hlt : cur.toNat < prev.toNat := h
  have hprev := half_toNat_lt prev
  refine ⟨(Nat.le_div_iff_mul_le (by omega)).2 ?_, Nat.div_le_self _ _⟩
  omega

theorem isDegenerate_iff (ncap : Fin 3) (interval : Word) (prev cur : Half) :
    isDegenerate ncap interval prev cur = true ↔ ncap ≠ 0 ∧ (interval = 0 ∨ prev < cur) := by
  simp [isDegenerate]

theorem ncapNext_eq (n : Fin 3) : ncapNext n = if n = 0 then 1 else 2 := by
  revert n
  decide

/-! ### What a handler run leaves in each field of the record (43_tachometer R167) -/

section

variable (s : State)

@[simp] theorem irqBodyStep_currentVal : (irqBodyStep s).currentVal = s.cap := by rw [irqBodyStep_eq]

@[simp] theorem irqBodyStep_interval : (irqBodyStep s).interval = intervalOf s.currentVal s.cap := by
  rw [irqBodyStep_eq]

@[simp] theorem irqBodyStep_speed : (irqBodyStep s).speed = speedOf (intervalOf s.currentVal s.cap) := by
  rw [irqBodyStep_eq]

@[simp] theorem irqBodyStep_ncap : (irqBodyStep s).ncap = ncapNext s.ncap := by rw [irqBodyStep_eq]

@[simp] theorem irqBodyStep_cap : (irqBodyStep s).cap = s.cap := by rw [irqBodyStep_eq]

@[simp] theorem irqBodyStep_pending : (irqBodyStep s).pending = s.pending := by rw [irqBodyStep_eq]

variable {s}

theorem irqBodyStep_status_of_first (h : s.ncap = 0) : (irqBodyStep s).status = s.status := by
  simp [irqBodyStep_eq, h, isDegenerate]

theorem statusDegenerate_irqBodyStep (hcount : s.ncap ≠ 0) (hequal : s.currentVal = s.cap) :
    statusDegenerate (irqBodyStep s) = true := by
  have hflag : isDegenerate s.ncap (intervalOf s.currentVal s.cap) s.currentVal s.cap = true :=
    (isDegenerate_iff _ _ _ _).2 ⟨hcount, .inl (by rw [hequal, intervalOf_self])⟩
  simp [statusDegenerate, irqBodyStep_eq, hflag]

/-! ### The handler's steps and the edge, enabled and not (43_tachometer R164, R166, R167) -/

theorem exec_irqBody_inHandler (h : s.inHandler = true) : exec .irqBody s = .next (irqBodyStep s) :=
  congrArg Host.Outcome.next (if_pos h)

theorem exec_irqBody_outside (h : s.inHandler = false) : exec .irqBody s = .next s := by
  simp [exec, execIrqBody, h]

theorem exec_irqAck_taken (h : canTakeInterrupt s = true) : exec .irqAck s = .next (enterHandler s) :=
  congrArg Host.Outcome.next (if_pos h)

theorem exec_irqAck_held (h : ¬canTakeInterrupt s = true) : exec .irqAck s = .next s :=
  congrArg Host.Outcome.next (if_neg h)

theorem exec_edge_captures (hrun : s.timerRun = true) (hcfg : s.capCfg = true) : exec .edge s = .next { s with
    cap := s.counter, pending := true, tstate := if s.tstate = .configured then .running else s.tstate } := by
  simp [exec, execEdge, hrun, hcfg]

theorem exec_edge_off (h : s.timerRun = false ∨ s.capCfg = false) : exec .edge s = .next s := by
  rcases h with h | h <;> simp [exec, execEdge, h]

/-! ### The requests of the tachometer and their completing steps (43_tachometer R161, R175) -/

theorem exec_seq_eq {t : State} (hseq : canSeq s = true) (hstep : seqStep s = t) : exec .seq s = .next t :=
  (exec_seq_of_canSeq hseq).trans (congrArg Host.Outcome.next hstep)

theorem seqStep_eq_completeStep (htodo : s.todo = []) (hact : s.strActive = false) (htorn : tornReadLeft s = false) :
    seqStep s = completeStep s := by
  simp [seqStep, htodo, hact, htorn]

theorem seqStep_eq_tachInitDone (hop : s.curOp = 0x8) (htodo : s.todo = []) (hact : s.strActive = false) :
    seqStep s = signalDone (tachInitDone s) := by
  have htorn : tornReadLeft s = false := by simp [tornReadLeft, hop]
  have heffect : completionEffect s = tachInitDone s := by simp [completionEffect, hop]
  rw [seqStep_eq_completeStep htodo hact htorn, completeStep, heffect]

theorem completeStep_eq_tachGetIntervalDone (hop : s.curOp = 0x9) :
    completeStep s = signalDone (tachGetIntervalDone s) := by
  have heffect : completionEffect s = tachGetIntervalDone s := by simp [completionEffect, hop]
  rw [completeStep, heffect]

theorem seqStep_eq_readSpeed (hop : s.curOp = 0x9) (htodo : s.todo = []) (hact : s.strActive = false)
    (hwhole : s.speedReadTearing = false) : seqStep s = signalDone { s with resp := s.speed } := by
  have htorn : tornReadLeft s = false := by simp [tornReadLeft, hwhole]
  rw [seqStep_eq_completeStep htodo hact htorn, completeStep_eq_tachGetIntervalDone hop, tachGetIntervalDone, hwhole]
  rfl

theorem exec_tachInit_idle (h : Claims.Idle s) (arg : Word) :
    exec (.tachInit arg) s = .next { s with busy := true, curOp := 0x8, curArg := arg, todo := [] } :=
  (acceptStep_accepted (canAccept_of_idle h) 0x8 arg (loadTodo [])).trans
    (congrArg Host.Outcome.next (loadTodo_latchRequest h 0x8 arg []))

theorem exec_tachGetInterval_idle (h : Claims.Idle s) (arg : Word) : exec (.tachGetInterval arg) s = .next { s with
    busy := true, curOp := 0x9, curArg := arg, todo := [], readPos := 0 } := by
  have haccept : exec (.tachGetInterval arg) s = .next (loadSpeedRead (latchRequest 0x9 arg s)) :=
    acceptStep_accepted (canAccept_of_idle h) 0x9 arg loadSpeedRead
  rw [haccept, loadSpeedRead, loadTodo_latchRequest h]

end

/-! ### A torn read (43_tachometer R176) -/

theorem getLsbD_byteMask (i : Nat) {n : Nat} (hn : n < 32) :
    ((0xFF <<< (8 * i) : Nat) : Word).getLsbD n = decide (8 * i ≤ n ∧ n < 8 * i + 8) := by
  have hones : Nat.testBit 0xFF (n - 8 * i) = decide (n - 8 * i < 8) := Nat.testBit_two_pow_sub_one 8 _
  rw [BitVec.natCast_eq_ofNat, BitVec.getLsbD_ofNat, Nat.testBit_shiftLeft, hones, Bool.eq_iff_iff]
  simp only [Bool.and_eq_true, decide_eq_true_eq]
  omega

theorem getLsbD_copyByte (i : Nat) (src dst : Word) {n : Nat} (hn : n < 32) :
    (copyByte i src dst).getLsbD n = if 8 * i ≤ n ∧ n < 8 * i + 8 then src.getLsbD n else dst.getLsbD n := by
  rw [copyByte, BitVec.getLsbD_or, BitVec.getLsbD_and, BitVec.getLsbD_and, BitVec.getLsbD_not,
    getLsbD_byteMask i hn]
  split <;> simp [*]

/-- A copied byte is the source's, and the other bytes stay. -/
theorem extractLsb'_copyByte (i : Nat) (src dst : Word) {j : Nat} (hj : j < 4) :
    (copyByte i src dst).extractLsb' (8 * j) 8 =
      if j = i then src.extractLsb' (8 * j) 8 else dst.extractLsb' (8 * j) 8 := by
  apply BitVec.eq_of_getLsbD_eq
  intro k hk
  have hbyte : (8 * i ≤ 8 * j + k ∧ 8 * j + k < 8 * i + 8) ↔ j = i := by omega
  rw [BitVec.getLsbD_extractLsb', getLsbD_copyByte i src dst (by omega), if_congr hbyte rfl rfl]
  split <;> rw [BitVec.getLsbD_extractLsb']

theorem word_eq_of_bytes {v w : Word} (h : ∀ j < 4, v.extractLsb' (8 * j) 8 = w.extractLsb' (8 * j) 8) : v = w := by
  apply BitVec.eq_of_getLsbD_eq
  intro k hk
  have hbyte := congrArg (fun b : Byte => b.getLsbD (k % 8)) (h (k / 8) (by omega))
  have hmod : k % 8 < 8 := Nat.mod_lt k (by decide)
  simpa [hmod, Nat.div_add_mod] using hbyte

/-- A `TACH_GETINTERVAL` under way that reads byte by byte, whatever the position. -/
structure ReadsTorn (s : State) : Prop where
  todo : s.todo = []
  strActive : s.strActive = false
  curOp : s.curOp = 0x9
  tearing : s.speedReadTearing = true

section

variable {s : State}

theorem ReadsTorn.tornReadLeft (h : ReadsTorn s) : tornReadLeft s = decide (s.readPos < 4) := by
  simp [Machine.tornReadLeft, h.curOp, h.tearing]

theorem ReadsTorn.seqStep_byte (h : ReadsTorn s) (hpos : s.readPos < 4) : seqStep s = tornReadStep s := by
  simp [seqStep, h.todo, h.strActive, h.tornReadLeft, hpos]

/-- The completing step of a torn read leaves the response as it was read. -/
theorem ReadsTorn.seqStep_done (h : ReadsTorn s) (hpos : 4 ≤ s.readPos) : seqStep s = signalDone s := by
  have htorn : Machine.tornReadLeft s = false := by
    rw [h.tornReadLeft]
    exact decide_eq_false (Nat.not_lt.2 hpos)
  rw [seqStep_eq_completeStep h.todo h.strActive htorn, completeStep_eq_tachGetIntervalDone h.curOp,
    tachGetIntervalDone, if_pos h.tearing]

/-- After `k` uninterrupted steps the first `k` bytes are those of the speed. -/
theorem ReadsTorn.seqSteps_bytes (h : ReadsTorn s) (hseq : canSeq s = true) (hstart : s.readPos = 0) {k : Nat}
    (hk : k ≤ 4) : ∃ r, seqSteps k s = { s with resp := r, readPos := k } ∧
      ∀ j < k, r.extractLsb' (8 * j) 8 = s.speed.extractLsb' (8 * j) 8 := by
  induction k with
  | zero =>
    refine ⟨s.resp, ?_, nofun⟩
    simp [seqSteps, ← hstart]
  | succ k ih =>
    obtain ⟨r, hrun, hbytes⟩ := ih (by omega)
    have hmid : ReadsTorn { s with resp := r, readPos := k } := { h with }
    refine ⟨copyByte k s.speed r, ?run, fun j hj => ?bytes⟩
    case run =>
      rw [seqSteps_add, hrun]
      exact (if_pos hseq).trans (hmid.seqStep_byte (by omega : k < 4))
    case bytes =>
      rw [extractLsb'_copyByte k s.speed r (by omega)]
      split
      · rfl
      · exact hbytes j (by omega)

theorem ReadsTorn.seqSteps_whole (h : ReadsTorn s) (hseq : canSeq s = true) (hstart : s.readPos = 0) :
    seqSteps 5 s = signalDone { s with resp := s.speed, readPos := 4 } := by
  obtain ⟨r, hrun, hbytes⟩ := h.seqSteps_bytes hseq hstart (Nat.le_refl 4)
  have hend : ReadsTorn { s with resp := s.speed, readPos := 4 } := { h with }
  rw [seqSteps_add 4 1, hrun, word_eq_of_bytes hbytes]
  exact (if_pos hseq).trans (hend.seqStep_done (Nat.le_refl 4))

end

end Sys2Proof.Machine

/-! ### The statements -/

namespace Sys2Proof.Claims

open Sys2Proof Sys2Proof.Machine

/-- Settles O35: the request loads nothing, so the next `Seq` is the completing step. -/
theorem tachInitConfigures : Obligations.TachInitConfigures := by
  unfold Obligations.TachInitConfigures
  intro arg s hidle
  have ⟨_, hhandler, hact⟩ := hidle
  exact ⟨rfl, _, exec_tachInit_idle hidle arg, rfl,
    exec_seq_eq ((canSeq_iff _).2 ⟨rfl, hhandler⟩) (seqStep_eq_tachInitDone rfl rfl hact)⟩

/-- Settles O36: as O35, and the completing step is the one read. -/
theorem getIntervalReturnsTheSpeed : Obligations.GetIntervalReturnsTheSpeed := by
  unfold Obligations.GetIntervalReturnsTheSpeed
  intro arg s hidle hwhole
  have ⟨_, hhandler, hact⟩ := hidle
  exact ⟨rfl, _, exec_tachGetInterval_idle hidle arg, rfl,
    exec_seq_eq ((canSeq_iff _).2 ⟨rfl, hhandler⟩) (seqStep_eq_readSpeed rfl rfl hact hwhole)⟩

/-- Settles O40, by the two branches of `EDGE`. -/
theorem edgeCaptures : Obligations.EdgeCaptures := by
  unfold Obligations.EdgeCaptures
  exact fun _ => ⟨exec_edge_captures, exec_edge_off⟩

/-- Settles O41: the six terms are `canTakeInterrupt`. -/
theorem irqAckEntersTheHandler : Obligations.IrqAckEntersTheHandler := by
  unfold Obligations.IrqAckEntersTheHandler
  intro s
  rw [← canTakeInterrupt_iff]
  exact ⟨exec_irqAck_taken, exec_irqAck_held⟩

/-- Settles O42: the step written out, its count and its degenerate test read as conditions. -/
theorem irqBodyUpdatesTheRecord : Obligations.IrqBodyUpdatesTheRecord := by
  unfold Obligations.IrqBodyUpdatesTheRecord
  refine fun s => ⟨fun hin => ⟨intervalOf s.currentVal s.cap, rfl, ?_⟩, exec_irqBody_outside⟩
  rw [exec_irqBody_inHandler hin, irqBodyStep_eq]
  simp only [ncapNext_eq, isDegenerate_iff]
  rfl

/-- Settles O37: a step copies the byte at the position, and at the end it completes. -/
theorem tornReadTakesOneByteAStep : Obligations.TornReadTakesOneByteAStep := by
  unfold Obligations.TornReadTakesOneByteAStep
  intro s hworking htodo hact hop htearing
  have hreads : ReadsTorn s := ⟨htodo, hact, hop, htearing⟩
  have hseq : canSeq s = true := (canSeq_iff s).2 hworking
  exact ⟨fun hpos => ⟨copyByte s.readPos s.speed s.resp, exec_seq_eq hseq (hreads.seqStep_byte hpos),
      fun _ => extractLsb'_copyByte _ _ _⟩,
    fun hpos => exec_seq_eq hseq (hreads.seqStep_done hpos)⟩

/-- Settles O38: four bytes of one speed are the speed, and the fifth step completes. -/
theorem uninterruptedTornReadIsWhole : Obligations.UninterruptedTornReadIsWhole := by
  unfold Obligations.UninterruptedTornReadIsWhole
  intro arg s hidle htearing
  have ⟨_, hhandler, hact⟩ := hidle
  refine ⟨_, exec_tachGetInterval_idle hidle arg, ?_⟩
  exact ReadsTorn.seqSteps_whole ⟨rfl, hact, rfl, htearing⟩ ((canSeq_iff _).2 ⟨rfl, hhandler⟩) rfl

/-- Settles O43: the speed of the interval between the captures, on both sides of equal ones. -/
theorem speedIsFourMillionOverInterval : Obligations.SpeedIsFourMillionOverInterval := by
  unfold Obligations.SpeedIsFourMillionOverInterval
  intro s hin
  refine ⟨_, exec_irqBody_inHandler hin, ?_⟩
  rw [irqBodyStep_interval, irqBodyStep_speed]
  refine ⟨toNat_intervalOf _ _, fun hdown => ?down, speedOf_intervalOf_of_le⟩
  case down =>
    rw [toNat_speedOf_intervalOf_of_lt hdown]
    exact ⟨rfl, speed_bounds_of_lt hdown⟩

/-- Settles O44: a first run takes its interval from 0, which gives speed 0, and the flag needs a run before it. -/
theorem firstRunLeavesSpeedZero : Obligations.FirstRunLeavesSpeedZero := by
  unfold Obligations.FirstRunLeavesSpeedZero
  intro s hin
  refine ⟨_, exec_irqBody_inHandler hin, fun hfirst hzero => ?first, fun hlater => ?later⟩
  case first =>
    have hcount : (irqBodyStep s).ncap = 1 := by rw [irqBodyStep_ncap, hfirst]; rfl
    refine ⟨?speed, ?interval, hcount, irqBodyStep_status_of_first hfirst, ?intervalValid, ?speedValid⟩
    case speed => rw [irqBodyStep_speed, hzero, speedOf_intervalOf_zero]
    case interval =>
      rw [irqBodyStep_interval, hzero]
      exact toNat_intervalOf_zero s.cap
    case intervalValid => rw [intervalValid, hcount]; rfl
    case speedValid => rw [speedValid, hcount]; rfl
  case later =>
    have hcount : (irqBodyStep s).ncap = 2 := by rw [irqBodyStep_ncap, ncapNext_eq, if_neg hlater]
    rw [intervalValid, speedValid, hcount]
    exact ⟨rfl, rfl, rfl⟩

/-- Settles O45: the first run reads the edge's capture and leaves it pending, so the second run finds two equal
captures. -/
theorem edgeInsideTheHandlerIsReadTwice : Obligations.EdgeInsideTheHandlerIsReadTwice := by
  unfold Obligations.EdgeInsideTheHandlerIsReadTwice
  intro s hin _ hcrit hrun hcfg hie hvec hgie
  refine ⟨_, _, _, _, exec_edge_captures hrun hcfg, exec_irqBody_inHandler hin, irqBodyStep_currentVal _,
    exec_irqAck_taken ?take, rfl, exec_irqBody_inHandler rfl, ?interval, ?speed, ?flag, irqBodyStep_pending _⟩
  case take => simp [canTakeInterrupt_iff, irqBodyStep_eq, hcrit, hie, hvec, hgie]
  case interval => simp [intervalOf_self]
  case speed => simp [speedOf_intervalOf_of_le]
  case flag => exact statusDegenerate_irqBodyStep (by simp [ncapNext_ne_zero]) (by simp)

end Sys2Proof.Claims
end

section
/-! The statement of 44_control_memory_system_ops: the frame rule (R184), by which the display and the tachometer leave
each other's state alone. -/

namespace Sys2Proof.Machine

section

variable {s t : State}

/-! ### The display's steps leave the tachometer and the response alone (44_control R184) -/

theorem tachView_emitAll (es : List Event) (s : State) : tachView (emitAll es s) = tachView s := by
  rw [emitAll_eq]
  rfl

theorem resp_emitAll (es : List Event) (s : State) : (emitAll es s).resp = s.resp := by
  rw [emitAll_eq]

theorem tachView_resp_of_displayRow {i : Instr} (hi : Claims.displayRow i = true) (h : exec i s = .next t) :
    tachView t = tachView s ∧ t.resp = s.resp := by
  cases execEffect_of_exec h with
  | held => exact ⟨rfl, rfl⟩
  | request _ hload =>
    obtain ⟨es, act, ptr, st, pos, heq, -⟩ := hload.effect _ _ s
    rw [heq]
    exact ⟨rfl, rfl⟩
  | inPlace es => exact ⟨tachView_emitAll es s, resp_emitAll es s⟩
  | seq | irqAck | irqBody | tick | edge | reset => cases hi

/-- The operation under way is neither of the tachometer's two (30_encoding R82). -/
abbrev NotTachOp (op : Nibble) : Prop := op ≠ 0x8 ∧ op ≠ 0x9

theorem completionEffect_of_notTachOp (hop : NotTachOp s.curOp) :
    completionEffect s = s ∨ completionEffect s = lcdInitDone s := by
  obtain ⟨hinit, hread⟩ := hop
  unfold completionEffect
  split
  case h_1 => exact .inr rfl
  case h_2 heq => exact absurd (BitVec.eq_of_toNat_eq heq) hinit
  case h_3 heq => exact absurd (BitVec.eq_of_toNat_eq heq) hread
  case h_4 => exact .inl rfl

theorem tornReadLeft_of_notTachOp (hop : NotTachOp s.curOp) : tornReadLeft s = false := by
  obtain ⟨-, hread⟩ := hop
  rw [tornReadLeft, beq_false_of_ne hread]
  rfl

theorem tachView_resp_seqStep (hop : NotTachOp s.curOp) :
    tachView (seqStep s) = tachView s ∧ (seqStep s).resp = s.resp := by
  rcases seqStep_cases s with ⟨e, rest, -, heq⟩ | ⟨-, -, heq⟩ | ⟨-, -, htorn, -⟩ | ⟨-, -, -, heq⟩
  · rw [heq]
    exact ⟨tachView_emitAll [e] { s with todo := rest }, resp_emitAll [e] { s with todo := rest }⟩
  · rcases stringStep_cases s with ⟨-, hstring⟩ | ⟨-, hstring⟩ <;> rw [heq, hstring] <;> exact ⟨rfl, rfl⟩
  · cases (tornReadLeft_of_notTachOp hop).symm.trans htorn
  · rcases completionEffect_of_notTachOp hop with heffect | heffect <;> rw [heq, completeStep, heffect] <;>
      exact ⟨rfl, rfl⟩

/-- An enabled `Seq` runs `seqStep`, and one that is not changes nothing (10_state R22, log 2). -/
theorem exec_seq_next (h : exec .seq s = .next t) : t = s ∨ t = seqStep s := by
  obtain rfl := Host.Outcome.next.inj h
  exact (ite_eq_or_eq _ _ _).symm

theorem tachView_resp_of_seq (hop : NotTachOp s.curOp) (h : exec .seq s = .next t) :
    tachView t = tachView s ∧ t.resp = s.resp := by
  rcases exec_seq_next h with rfl | rfl
  · exact ⟨rfl, rfl⟩
  · exact tachView_resp_seqStep hop

/-! ### The tachometer's steps leave the display alone (44_control R184) -/

/-- The `Accept` of a tachometer request writes the fields that R184 lets it write, and the position of a torn read
(log 14). -/
theorem tachRequest_writes {arg : Word}
    (h : exec (.tachInit arg) s = .next t ∨ exec (.tachGetInterval arg) s = .next t) :
    ∃ b o a es ac rp, t = { s with
      busy := b, curOp := o, curArg := a, todo := es, strActive := ac, readPos := rp } := by
  rcases h with h | h <;> rcases acceptStep_next h with rfl | ⟨-, rfl⟩ <;> exact ⟨_, _, _, _, _, _, rfl⟩

theorem tachGetIntervalDone_eq (s : State) :
    tachGetIntervalDone s = { s with resp := if s.speedReadTearing then s.resp else s.speed } := by
  unfold tachGetIntervalDone
  split <;> rfl

theorem seqStep_eq_tornReadStep (htodo : s.todo = []) (hact : s.strActive = false) (htorn : tornReadLeft s = true) :
    seqStep s = tornReadStep s := by
  simp [seqStep, htodo, hact, htorn]

/-- With nothing left to send, a step of a tachometer operation completes it or reads a byte: of the display's view only
`busy` can change. -/
theorem displayView_seqStep_of_tachOp (htodo : s.todo = []) (hact : s.strActive = false)
    (hop : s.curOp = 0x8 ∨ s.curOp = 0x9) : displayView { seqStep s with busy := s.busy } = displayView s := by
  rcases hop with hinit | hread
  · rw [seqStep_eq_tachInitDone hinit htodo hact]
    rfl
  · cases htorn : tornReadLeft s with
    | true =>
      rw [seqStep_eq_tornReadStep htodo hact htorn]
      rfl
    | false =>
      rw [seqStep_eq_completeStep htodo hact htorn, completeStep_eq_tachGetIntervalDone hread, tachGetIntervalDone_eq]
      rfl

theorem displayView_of_seq_of_tachOp (htodo : s.todo = []) (hact : s.strActive = false)
    (hop : s.curOp = 0x8 ∨ s.curOp = 0x9) (h : exec .seq s = .next t) :
    displayView { t with busy := s.busy } = displayView s := by
  rcases exec_seq_next h with rfl | rfl
  · rfl
  · exact displayView_seqStep_of_tachOp htodo hact hop

theorem resp_of_irqAck (h : exec .irqAck s = .next t) : t.resp = s.resp := by
  rcases exec_irqAck_cases h with rfl | ⟨-, rfl⟩ <;> rfl

theorem resp_of_irqBody (h : exec .irqBody s = .next t) : t.resp = s.resp := by
  rcases exec_irqBody_cases h with rfl | ⟨-, rfl⟩
  · rfl
  · rw [irqBodyStep_eq]

/-! ### What the environment's steps write (44_control R184) -/

theorem tick_writes (h : exec .tick s = .next t) : t = { s with counter := t.counter } := by
  rw [exec_tick_eq] at h
  obtain rfl := Host.Outcome.next.inj h
  rfl

theorem edge_writes (h : exec .edge s = .next t) :
    t = { s with cap := t.cap, pending := t.pending, tstate := t.tstate } := by
  rcases exec_edge_cases h with rfl | ⟨-, rfl⟩ <;> rfl

end

end Sys2Proof.Machine

/-! ### The statement -/

namespace Sys2Proof.Claims

open Sys2Proof Sys2Proof.Machine

/-- Settles O49: each clause is the frame of its unit's steps, read off what each way to run can do. -/
theorem unitsLeaveEachOtherAlone : Obligations.UnitsLeaveEachOtherAlone := by
  unfold Obligations.UnitsLeaveEachOtherAlone
  refine ⟨?displayRows, ?displaySeq, ?tachRequests, ?tachSeq, ?handler, ?tick, ?edge⟩
  case displayRows => exact fun _ _ _ => tachView_resp_of_displayRow
  case displaySeq => exact fun _ _ hinit hread => tachView_resp_of_seq ⟨hinit, hread⟩
  case tachRequests => exact fun _ _ _ => tachRequest_writes
  case tachSeq => exact fun _ _ => displayView_of_seq_of_tachOp
  case handler =>
    rintro s t (hack | hbody)
    · exact ⟨displayView_of_irqAck hack, resp_of_irqAck hack⟩
    · exact ⟨displayView_of_irqBody hbody, resp_of_irqBody hbody⟩
  case tick => exact fun _ _ => tick_writes
  case edge => exact fun _ _ => edge_writes

end Sys2Proof.Claims
end

section
/-! The statements of 60_exceptions: no step stops the block (R190), two early edges give one handler run (R197), and
where no move is listed the next one is a free draw (R201). -/

namespace Sys2Proof.Machine

/-! ### A move that is not listed is drawn (60_exceptions R201, log 1) -/

theorem nextChoice_drawn {s : State} (ha : s.agenda = []) :
    nextChoice s = (Config.freeChoice s.draws, { s with draws := s.draws + 1 }) := by
  simp [nextChoice, ha]

/-- Listing the drawn move and counting the draw gives the same next move, in the same state. -/
theorem nextChoice_list_drawn {s : State} (ha : s.agenda = []) :
    nextChoice { s with agenda := [Config.freeChoice s.draws], draws := s.draws + 1 } = nextChoice s := by
  rw [nextChoice_drawn ha, nextChoice_listed rfl, ← ha]

theorem step_congr_nextChoice {s t : State} (hs : s.probe = []) (ht : t.probe = [])
    (h : nextChoice s = nextChoice t) : step s = step t := by
  rw [step_of_choice s hs, step_of_choice t ht, h]

/-! ### No interrupt without an edge (60_exceptions R196, R197) -/

theorem not_canTakeInterrupt_of_not_pending {s : State} (h : s.pending = false) : ¬canTakeInterrupt s = true := by
  simp [canTakeInterrupt, h]

@[simp] theorem irqBodyStep_previousVal (s : State) : (irqBodyStep s).previousVal = s.currentVal := by
  rw [irqBodyStep_eq]

/-- The run that takes a capture clears it, so the interrupt cannot be taken again before another edge. -/
theorem not_canTakeInterrupt_after_run (s : State) : ¬canTakeInterrupt (irqBodyStep (enterHandler s)) = true :=
  not_canTakeInterrupt_of_not_pending (irqBodyStep_pending _)

end Sys2Proof.Machine

/-! ### The statements -/

namespace Sys2Proof.Claims

open Sys2Proof Sys2Proof.Machine

/-- Settles O8: a move outside the block is done at once, and every instruction of an agent answers a next state. -/
theorem everyStepHasANextState : Obligations.EveryStepHasANextState := by
  unfold Obligations.EveryStepHasANextState
  intro s hp
  rw [step_of_choice s hp]
  match instrOfChoice (nextChoice s).1 (nextChoice s).2 with
  | (none, t) => exact ⟨t, rfl⟩
  | (some i, t) => exact exec_next i t

/-- Settles O46: the second edge captures the counter as the `TICK` left it, over the first capture, and the one run
takes that capture and leaves none pending. -/
theorem earlyEdgesCoalesce : Obligations.EarlyEdgesCoalesce := by
  unfold Obligations.EarlyEdgesCoalesce
  intro s hhandler hcrit hrun hcfg hie hvec hgie
  refine ⟨_, _, _, _, _, exec_edge_captures hrun hcfg, exec_tick_eq _, exec_edge_captures hrun hcfg, rfl, rfl,
    exec_irqAck_taken ?take, exec_irqBody_inHandler rfl, irqBodyStep_currentVal _, irqBodyStep_previousVal _,
    exec_irqAck_held (not_canTakeInterrupt_after_run _)⟩
  case take => exact (canTakeInterrupt_iff _).2 ⟨rfl, hie, hvec, hgie, hcrit, hhandler⟩

/-- Settles O6: drawing the move, and listing it with the draw counted, leave the same move to be made. -/
theorem stepDrawsAnyMove : Obligations.StepDrawsAnyMove := by
  unfold Obligations.StepDrawsAnyMove
  intro s hp ha
  exact step_congr_nextChoice hp hp (nextChoice_list_drawn ha).symm

end Sys2Proof.Claims
end

section
/-! The statement of 70_reset_and_hazards: what `RESET` leaves (R220 to R222). -/

namespace Sys2Proof.Machine

/-- `RESET` is always enabled: it looks at nothing of the state it finds (70_reset R220). -/
theorem exec_reset_eq (s : State) : exec .reset s = .next (hardwareReset s) := rfl

end Sys2Proof.Machine

/-! ### The statement -/

namespace Sys2Proof.Claims

open Sys2Proof Sys2Proof.Machine

/-- Settles O55: whatever the state, the action is `hardwareReset`. It takes the elements of the block from the reset
state, whose values are the listed ones, and what is outside the block from the state it finds. -/
theorem resetRestoresEveryElement : Obligations.ResetRestoresEveryElement := by
  unfold Obligations.ResetRestoresEveryElement
  intro s
  rw [exec_reset_eq, hardwareReset, State.reset]
  rfl

end Sys2Proof.Claims
end
